-- ==== Sys2Proof/Word.lean ====
section
/-! DEFINITION. The words of the NTSC-CRT CORE: packet words and registers (32 bits), samples (signed 8 bits),
pixel cells (24 bits). Nothing here is arithmetic that a test could show wrong. -/

namespace Sys2Proof

/-- A 32-bit word of a command packet or a register (R34, R90). -/
abbrev Word := BitVec 32

/-- One cell of a sample buffer, read as a signed value (R21). -/
abbrev Sample := BitVec 8

/-- One cell of host pixel memory, `R·65536 + G·256 + B` (R66, R68). -/
abbrev Pixel := BitVec 24

end Sys2Proof
end

