-- ==== Sys2Proof/Syntax.lean ====
section
/-! DEFINITION. The command packet and the five commands (R3, R90, R93), one constructor of `Instr` per row of
spec/opcode_table.json. -/

namespace Sys2Proof

/-- A command packet: four 32-bit words, delivered whole (R90). -/
structure Packet where
  w0 : Word
  w1 : Word
  w2 : Word
  w3 : Word
deriving DecidableEq, Repr

/-- The five commands of the block (R3). Operands are unsigned integers (R92); the order is the document's (R98). -/
inductive Instr where
  /-- `init(width, height, outputBuffer)` (R121) -/
  | init (width height outputBuffer : Nat)
  /-- `resize(width, height, outputBuffer)` (R123) -/
  | resize (width height outputBuffer : Nat)
  /-- `reset()` (R124) -/
  | reset
  /-- `modulate(settings: image, width, height, colorEnabled, fieldParity)`; parity `false` = even, `true` = odd (R140) -/
  | modulate (image width height : Nat) (colorEnabled fieldParity : Bool)
  /-- `decode(noiseLevel)` (R180) -/
  | decode (noiseLevel : Nat)
deriving DecidableEq, Repr

end Sys2Proof
end

