-- ==== Sys2Proof/WellFormed.lean ====
section
/-! DEFINITION. Which commands have an encoding: every operand fits its 32-bit field (R91, R92). -/

namespace Sys2Proof

/-- An operand fits a 32-bit word of the packet (R92: "an unsigned integer" of its field). -/
def fitsWord (v : Nat) : Bool := v < 2 ^ 32

/-- The commands a packet can carry: each operand in the range of its field (R91, R92). -/
def Instr.wellFormed : Instr → Bool
  | .init w h p => fitsWord w && fitsWord h && fitsWord p
  | .resize w h p => fitsWord w && fitsWord h && fitsWord p
  | .reset => true
  | .modulate p w h _ _ => fitsWord p && fitsWord w && fitsWord h
  | .decode n => fitsWord n

end Sys2Proof
end

