-- ==== Sys2Proof/Decode.lean ====
section
/-! DEFINITION. The command decoder, total on every packet and rejecting by name (R95, R97), the encoder (R91, R93, R98),
and `decodeTableWord`, the decoder on the bits of a row of spec/opcode_table.json. -/

namespace Sys2Proof

/-- Why a packet is illegal (R95). The block records F_ILLEGAL_CMD for each of them alike (R292). -/
inductive Illegal where
  /-- a non-zero bit in `Z = W0[31:10]`, whatever OP -/
  | reservedBits
  /-- C or F set on a command that has no such operand -/
  | strayFlag
  /-- OP is 0x00 or 0x06..0xFF -/
  | unknownOpcode
deriving DecidableEq, Repr

/-- What the decoder yields: one of the five commands with its operands, or `illegal` with its reason (R97). -/
inductive Decoded where
  | command (i : Instr)
  | illegal (why : Illegal)
deriving DecidableEq, Repr

/-- `OP = W0[7:0]` (R91). -/
def Packet.op (p : Packet) : Nat := (p.w0.extractLsb' 0 8).toNat

/-- `C = W0[8]` (R91). -/
def Packet.flagC (p : Packet) : Bool := p.w0.getLsbD 8

/-- `F = W0[9]` (R91). -/
def Packet.flagF (p : Packet) : Bool := p.w0.getLsbD 9

/-- `Z = W0[31:10]` (R91). -/
def Packet.reserved (p : Packet) : Nat := (p.w0.extractLsb' 10 22).toNat

/-- First operand `A = zext_32(W1)` (R92). -/
def Packet.operandA (p : Packet) : Nat := p.w1.toNat

/-- Second operand `B = zext_32(W2)` (R92). -/
def Packet.operandB (p : Packet) : Nat := p.w2.toNat

/-- Pixel-address operand `P = zext_32(W3)` (R92). -/
def Packet.operandP (p : Packet) : Nat := p.w3.toNat

/-- The decoder of R97, test by test in the rule's order. -/
def decode (p : Packet) : Decoded :=
  if p.reserved ≠ 0 then .illegal .reservedBits
  else if p.op = 0x04 then .command (.modulate p.operandP p.operandA p.operandB p.flagC p.flagF)
  else if p.flagC || p.flagF then .illegal .strayFlag
  else if p.op = 0x01 then .command (.init p.operandA p.operandB p.operandP)
  else if p.op = 0x02 then .command (.resize p.operandA p.operandB p.operandP)
  else if p.op = 0x03 then .command .reset
  else if p.op = 0x05 then .command (.decode p.operandA)
  else .illegal .unknownOpcode

/-- The opcode of each command (R93). -/
def Instr.opcode : Instr → Nat
  | .init _ _ _ => 0x01
  | .resize _ _ _ => 0x02
  | .reset => 0x03
  | .modulate _ _ _ _ _ => 0x04
  | .decode _ => 0x05

/-- `W0 = Z ‖ F ‖ C ‖ OP` with Z = 0 (R91). -/
def headWord (op : Nat) (c f : Bool) : Word :=
  BitVec.ofNat 32 (op + 256 * c.toNat + 512 * f.toNat)

/-- The packet of a command (R91, R93); ignored words are assembled as 0 (R98). -/
def encode : Instr → Packet
  | .init w h p => ⟨headWord 0x01 false false, BitVec.ofNat 32 w, BitVec.ofNat 32 h, BitVec.ofNat 32 p⟩
  | .resize w h p => ⟨headWord 0x02 false false, BitVec.ofNat 32 w, BitVec.ofNat 32 h, BitVec.ofNat 32 p⟩
  | .reset => ⟨headWord 0x03 false false, 0, 0, 0⟩
  | .modulate p w h c f => ⟨headWord 0x04 c f, BitVec.ofNat 32 w, BitVec.ofNat 32 h, BitVec.ofNat 32 p⟩
  | .decode n => ⟨headWord 0x05 false false, BitVec.ofNat 32 n, 0, 0⟩

/-- The packet whose 128-bit pattern `P ‖ B ‖ A ‖ W0` (R91) is the low `nbits` bits of `w`, every bit above them 0. -/
def packetOfBits (nbits w : Nat) : Packet :=
  let v := w % 2 ^ nbits
  ⟨BitVec.ofNat 32 v, BitVec.ofNat 32 (v / 2 ^ 32), BitVec.ofNat 32 (v / 2 ^ 64), BitVec.ofNat 32 (v / 2 ^ 96)⟩

/-- The command the decoder reads from an instruction whose bits are `w`, numbered as spec/opcode_table.json numbers
them (bit 0 is the least significant bit of W0; W1, W2, W3 count on from bit 32). -/
def decodeTableWord (nbits w : Nat) : Option Instr :=
  match decode (packetOfBits nbits w) with
  | .command i => some i
  | .illegal _ => none

end Sys2Proof
end

