-- ==== Sys2Proof/Machine/Arith.lean ====
section
/-! DEFINITION. The spec's arithmetic on mathematical integers (R13, R14) and the fixed protocol constants (R7). -/

namespace Sys2Proof.Machine

/-- `a >> k = floor(a / 2^k)` for any sign (R14). -/
def shr (a : Int) (k : Nat) : Int := a / 2 ^ k

/-- `fdiv(a, b) = floor(a / b)` for `b > 0` (R14); Lean's `/` on integers is the floor for a positive divisor. -/
def fdiv (a b : Int) : Int := a / b

/-- `clamp(v, lo, hi)` (R14). -/
def clamp (v lo hi : Int) : Int := if v < lo then lo else if v > hi then hi else v

/-- The sum of `f 0`, …, `f (n − 1)`. -/
def sumTo : Nat → (Nat → Int) → Int
  | 0, _ => 0
  | n + 1, f => sumTo n f + f n

/-- HRES, samples per line (R7, R21). -/
abbrev hres : Nat := 910
/-- VRES, lines per field (R7, R21). -/
abbrev vres : Nat := 262
/-- N = HRES × VRES, length of each sample buffer (R7, R21). -/
def bufLen : Nat := 238420
/-- SYNC_BEG and SYNC_END, the horizontal sync pulse (R143). -/
abbrev syncBeg : Nat := 21
abbrev syncEnd : Nat := 88
/-- CB_BEG and CB_LEN, the colour burst (R143). -/
abbrev cbBeg : Nat := 97
abbrev cbLen : Nat := 40
/-- AV_BEG and AV_LEN, active video (R143). -/
abbrev avBeg : Nat := 156
abbrev avLen : Nat := 752
/-- HALF, half a line (R144). -/
abbrev half : Nat := 455
/-- EQ_W and BROAD_W, widths of the equalizing and the broad pulse (R144). -/
abbrev eqW : Nat := 33
abbrev broadW : Nat := 388
/-- TOP and NLINES, the active lines (R145). -/
abbrev top : Nat := 21
abbrev nlines : Nat := 240
/-- WHITE, BLACK, BLANK, SYNC, BURST: levels in sample units (R142). -/
abbrev white : Int := 100
abbrev black : Int := 7
abbrev blank : Int := 0
abbrev syncTip : Int := -40
abbrev burstAmp : Int := 20
/-- AV_MIN and AV_MAX, the clamp of an active sample (R152). -/
abbrev avMin : Int := -20
abbrev avMax : Int := 127

/-- `COS4[p]`, one cycle of the subcarrier in four samples (R141). -/
def cos4 (p : Nat) : Int :=
  match p % 4 with
  | 0 => 1
  | 2 => -1
  | _ => 0

/-- `SIN4[p]` (R141). -/
def sin4 (p : Nat) : Int :=
  match p % 4 with
  | 1 => 1
  | 3 => -1
  | _ => 0

/-- A buffer index reduced `mod N`: the decoder reads the buffer as circular (R63). -/
def wrapIndex (i : Int) : Nat := (i % (bufLen : Int)).toNat

end Sys2Proof.Machine
end

