-- ==== Sys2Proof/Machine/Cells.lean ====
section
/-! DEFINITION. Sparse memories: lists of (address, value) pairs with addresses strictly rising. One operation reads a
cell, one operation writes a block of cells; every memory of the machine is built on these two. -/

namespace Sys2Proof.Machine

/-- The value listed for address `k`, if one is. -/
def findCell {α : Type} : List (Nat × α) → Nat → Option α
  | [], _ => none
  | (a, v) :: rest, k => if a = k then some v else findCell rest k

/-- The cells `base .. base + n − 1` replaced: cell `base + i` becomes `f i` (`none`: not listed); all others stay. -/
def spliceCells {α : Type} (base n : Nat) (f : Nat → Option α) (m : List (Nat × α)) : List (Nat × α) :=
  m.filter (fun c => c.1 < base)
    ++ (List.range n).filterMap (fun i => (f i).map fun v => (base + i, v))
    ++ m.filter (fun c => base + n ≤ c.1)

/-- The addresses rise strictly. -/
abbrev SortedCells {α : Type} (m : List (Nat × α)) : Prop :=
  m.Pairwise fun c d => c.1 < d.1

end Sys2Proof.Machine
end

