-- ==== Sys2Proof/Config.lean ====
section
/-! DEFINITION. What an implementation fixes (the open parameters of R8) and the free values: constants with no body,
so that nothing can be proved of them and a claim holds whatever they are. -/

namespace Sys2Proof

/-- A range of mapped pixel addresses: `base .. base + size − 1`. -/
structure PixRegion where
  base : Nat
  size : Nat
deriving DecidableEq, Repr

/-- The three values the spec leaves to whoever builds or wires the block (R8): BLOOM_EN, MAX_DIM and the set PIXMEM
of pixel addresses that exist, given as ranges. -/
structure Params where
  bloomEn : Bool
  maxDim : Nat
  pixmem : List PixRegion
deriving DecidableEq, Repr

/-- The spec's defaults for BLOOM_EN and MAX_DIM (R8). PIXMEM has none in the spec ("platform"): every 32-bit address is
mapped. DESIGN CHOICE, unsafe (log 5); statements quantify over every value of the parameters. -/
def Params.default : Params :=
  { bloomEn := false, maxDim := 4096, pixmem := [⟨0, 2 ^ 32⟩] }

/-- The word a register read returns where the spec says "any 32-bit value" (R35, R300, U2, U14); the argument is the
draw number. Free value, safe (log 2). -/
opaque Config.freeWord : Nat → Word

/-- The value an unspecified sample cell has when it is read at a given draw (R38, R64, R65, U3, U5, U10);
arguments: draw number, cell. Free value, safe (log 2, log 3). -/
opaque Config.freeSample : Nat → Nat → Sample

/-- The value of a pixel cell nothing has written: stable between writes (R67, U8); arguments: epoch, address.
Free value, safe (log 4). -/
opaque Config.freePixel : Nat → Nat → Pixel

/-- An open choice between two outcomes: whether a cell holds its old or its new value (R298, R322, R332; U11, U13, U15);
arguments: draw number, access number. Free value, safe (log 9, 10, 11). -/
opaque Config.freeChoice : Nat → Nat → Bool

/-- An open choice among several earlier values of a pixel cell or of the map (R332, U13); arguments: draw number,
access number. Free value, safe (log 10, log 13). -/
opaque Config.freePick : Nat → Nat → Nat

/-- The number behind an unspecified Device field after F_BUSY (R331, U12), brought into the field's range where it is
used; arguments: draw number, field. Free value, safe (log 8). -/
opaque Config.freeField : Nat → Nat → Nat

end Sys2Proof
end

