-- ==== Sys2Proof/Machine/State.lean ====
section
/-! DEFINITION. The state of one instance of the block (the Device, R20), of the host pixel memory it works on, of the
host's transactions still to come, and the machine right after power-on reset (R38, R320). Plain data throughout. -/

namespace Sys2Proof.Machine

/-- What a cell of a sample buffer that no entry lists holds. -/
inductive Fill where
  /-- it holds 0 (the buffer was zeroed by INIT or written whole by a command) -/
  | zero
  /-- its value is unspecified, a fresh free value at every read (R38, U1, U4, U10) -/
  | unspecified
deriving DecidableEq, Repr

/-- A sample buffer of N cells (R21): the listed cells in strictly rising order, and what the others hold. Canonical
form: `SampleBuf.wf` in Sys2Proof/Machine/Buffers.lean. -/
structure SampleBuf where
  fill : Fill
  cells : List Host.Cell
deriving DecidableEq, Repr

/-- The five calibration values (R26 to R29). -/
structure Calibration where
  brightness : Int
  contrast : Int
  saturation : Int
  blackPoint : Int
  whitePoint : Int
deriving DecidableEq, Repr

/-- The default calibration INIT and RESET restore (R26 to R29, R121, R124). -/
def Calibration.default : Calibration :=
  { brightness := 0, contrast := 128, saturation := 128, blackPoint := 7, whitePoint := 100 }

/-- The causes a sticky fault records (R291). Recording one is a NEXT state of the machine, not a stop. -/
inductive FaultCode where
  | illegalCmd
  | notReady
  | badGeometry
  | badImage
  | busy
  | mem
  | badIndex
deriving DecidableEq, Repr

/-- One write of the host to a pixel cell made while a command was executing (R332): the address and the value the cell
had before it. -/
structure HostWrite where
  addr : Nat
  before : Pixel
deriving DecidableEq, Repr

/-- A command in progress (BUSY = 1): the command, and what the host and the platform did to pixel memory since it
began, latest first (R332). The maps listed are the earlier ones (log 13). -/
structure Running where
  instr : Instr
  writes : List HostWrite
  maps : List (List PixRegion)
deriving DecidableEq, Repr

/-- One transaction at the block's boundary (R12), in the order the host issues them. `start` and `finish` split a
command in two, so that a transaction can arrive while it executes (R300, R331, R332; log 7). -/
inductive Event where
  /-- a command packet whose completion the host waits for (R10, R75) -/
  | command (p : Packet)
  /-- a command packet whose completion the host does not wait for -/
  | start (p : Packet)
  /-- the command in progress completes -/
  | finish
  /-- `RegRead(i)` (R35) -/
  | regRead (i : Nat)
  /-- `RegWrite(i, v)` (R36) -/
  | regWrite (i : Nat) (v : Word)
  /-- `AnaRead(k)` (R64) -/
  | anaRead (k : Nat)
  /-- `RawRead(k)` (R64) -/
  | rawRead (k : Nat)
  /-- `AnaWrite(k, v)` (R64) -/
  | anaWrite (k : Nat) (v : Sample)
  /-- the host reads a cell of its pixel memory (R332) -/
  | pixRead (a : Nat)
  /-- the host writes a cell of its pixel memory (R324, R332) -/
  | pixWrite (a : Nat) (v : Pixel)
  /-- the platform changes which pixel addresses exist (R325, U29; log 13) -/
  | remap (m : List PixRegion)
  /-- power-on reset (R320, R322) -/
  | powerOn
deriving DecidableEq, Repr

/-- The answer of a read transaction. -/
inductive Reply where
  | word (v : Word)
  | sample (v : Sample)
  | pixel (v : Pixel)
deriving DecidableEq, Repr

/-- The whole machine. The first block of fields is the Device (R20); then the host pixel memory and the parameters,
which are not Device state (R39); then the model's own fields (log 2, 4, 6). -/
structure State where
  /-- the analog buffer (R61) -/
  analog : SampleBuf
  /-- the raw-input buffer (R62) -/
  raw : SampleBuf
  /-- horizontal sync phase, 0..909 (R24) -/
  hsync : Nat
  /-- vertical sync phase, 0..261 (R25) -/
  vsync : Nat
  /-- the five calibration values (R26 to R29) -/
  cal : Calibration
  /-- output width, 1..MAX_DIM (R31) -/
  outw : Nat
  /-- output height, 1..MAX_DIM (R31) -/
  outh : Nat
  /-- pixel address of the bound output buffer (R31) -/
  outBase : Word
  /-- state of the noise generator (R32) -/
  rng : Word
  /-- STATUS.READY (R30) -/
  ready : Bool
  /-- STATUS.FAULT (R30) -/
  fault : Bool
  /-- STATUS.FCODE (R30) -/
  fcode : BitVec 4
  /-- the command in progress; STATUS.BUSY is whether there is one (R30) -/
  running : Option Running
  /-- host pixel memory: the cells written so far, addresses strictly rising (R66) -/
  pix : List (Nat × Pixel)
  /-- which free contents the unwritten pixel cells have (U8; log 4) -/
  pixEpoch : Nat
  /-- BLOOM_EN, MAX_DIM, PIXMEM (R8) -/
  params : Params
  /-- the transactions still to come, oldest first (log 6) -/
  events : List Event
  /-- the answer of the last read transaction (log 6) -/
  reply : Option Reply
  /-- number of free values drawn so far (log 2) -/
  draws : Nat
deriving DecidableEq, Repr

/-- Reasons for which a step could stop the machine for good. There is none: every fault of the spec is recorded in
STATUS and leaves a next state (R290, R296), and no access is left without a result (D25). Safe (log 17). -/
inductive Fault where
deriving DecidableEq, Repr

/-- Reasons for which a step has no meaning. -/
inductive Refusal where
  /-- raised by `exec` for a command whose meaning is not written; no arm raises it now. Safe. -/
  | notModelled (mnemonic : String)
deriving DecidableEq, Repr

/-- STATUS.BUSY (R30): a command is in progress. -/
def State.busy (s : State) : Bool := s.running.isSome

/-- The machine right after power-on reset (R38, R320): `ready`, `fault`, `fcode` and BUSY are 0; both buffers are
unspecified. The spec leaves every other field unspecified; the values here are the model's, inside the field's range,
and no read shows them while `ready` = 0 (DESIGN CHOICE, log 1; parameters log 5; the model's own fields log 2, 4, 6). -/
def State.reset : State :=
  { analog := ⟨.unspecified, []⟩
    raw := ⟨.unspecified, []⟩
    hsync := 0
    vsync := 0
    cal := Calibration.default
    outw := 1
    outh := 1
    outBase := 0
    rng := 0
    ready := false
    fault := false
    fcode := 0
    running := none
    pix := []
    pixEpoch := 0
    params := Params.default
    events := []
    reply := none
    draws := 0 }

end Sys2Proof.Machine
end

