-- ==== Sys2Proof/Machine/Buffers.lean ====
section
/-! DEFINITION. The two sample buffers (R21, R60 to R62): reading a cell, writing a cell, writing a whole buffer, and
the one canonical form of a buffer. -/

namespace Sys2Proof.Machine

/-- What an unlisted cell of a buffer reads as at draw `d`: 0 where the buffer was zeroed or written whole, a free value
where it is unspecified (R38; log 3). -/
def blankSample (f : Fill) (d k : Nat) : Sample :=
  match f with
  | .zero => 0
  | .unspecified => Config.freeSample d k

/-- Cell `k` of a buffer, read at draw `d`. -/
def SampleBuf.get (b : SampleBuf) (d k : Nat) : Sample :=
  (findCell b.cells k).getD (blankSample b.fill d k)

/-- The entry that makes a cell of a buffer with fill `f` hold `v`: none where an unlisted cell holds `v` anyway. -/
def sampleEntry (f : Fill) (v : Sample) : Option Sample :=
  if f = .zero ∧ v = 0 then none else some v

/-- Cell `k` of a buffer becomes `v`. -/
def SampleBuf.set (b : SampleBuf) (k : Nat) (v : Sample) : SampleBuf :=
  { b with cells := spliceCells k 1 (fun _ => sampleEntry b.fill v) b.cells }

/-- Every cell 0 (INIT, R121). -/
def SampleBuf.zeros : SampleBuf := ⟨.zero, []⟩

/-- Every cell unspecified (R38, R298, R331). -/
def SampleBuf.open : SampleBuf := ⟨.unspecified, []⟩

/-- The buffer whose every cell `k` is `f k`, a value of [−128, 127]. -/
@[irreducible] def SampleBuf.ofFn (f : Nat → Int) : SampleBuf :=
  { fill := .zero
    cells := spliceCells 0 bufLen (fun k => sampleEntry .zero (BitVec.ofInt 8 (f k))) [] }

/-- All N cells of a buffer as integers, read at draw `d`; the same values as `SampleBuf.get` (lemma
`SampleBuf.values_getD` in Sys2Proof/Laws/Buffers.lean), laid out once for a command that reads them all. -/
@[irreducible] def SampleBuf.values (b : SampleBuf) (d : Nat) : Array Int :=
  b.cells.foldr (fun c a => a.setIfInBounds c.1 c.2.toInt)
    (Array.ofFn (n := bufLen) fun k => (blankSample b.fill d k).toInt)

/-- The canonical form of a buffer: cells strictly rising, inside the buffer, and no entry equal to what an unlisted
cell holds. -/
abbrev SampleBuf.wf (b : SampleBuf) : Prop :=
  SortedCells b.cells ∧ (∀ c ∈ b.cells, c.1 < bufLen) ∧ (b.fill = .zero → ∀ c ∈ b.cells, c.2 ≠ 0)

end Sys2Proof.Machine
end

