-- ==== Sys2Proof/Machine/Ops.lean ====
section
/-! DEFINITION. The named operations over the machine: host pixel memory, recording a fault (the block's one exception,
R290, R296), the after-effects of F_BUSY (R331), and the gate every command passes first (R120). -/

namespace Sys2Proof.Machine

/-- The outcomes of this machine. -/
abbrev Out := Host.Outcome State Fault Refusal

/-! ### Host pixel memory -/

/-- Address `a` is in the map `m`. Address arithmetic does not wrap: 2^32 and above is in no map (R66). -/
def mappedIn (m : List PixRegion) (a : Nat) : Bool :=
  a < 2 ^ 32 && m.any fun r => r.base ≤ a && a < r.base + r.size

/-- Address `a` is in PIXMEM (R66). -/
def State.mapped (s : State) (a : Nat) : Bool := mappedIn s.params.pixmem a

/-- The value of pixel cell `a`: what was last written there, or a free value stable between writes (R67, U8). -/
def State.pixel (s : State) (a : Nat) : Pixel :=
  (findCell s.pix a).getD (Config.freePixel s.pixEpoch a)

/-- The byte view of pixel memory where a platform stores cells as bytes (R68): bytes `3·addr`, `3·addr + 1`, `3·addr + 2`
are R, G, B of cell `addr`. No rule depends on it. -/
def State.pixelByte (s : State) (b : Nat) : BitVec 8 :=
  match b % 3 with
  | 0 => (s.pixel (b / 3)).extractLsb' 16 8
  | 1 => (s.pixel (b / 3)).extractLsb' 8 8
  | _ => (s.pixel (b / 3)).extractLsb' 0 8

/-- Pixel cell `a` becomes `v` (R67). -/
def State.setPixel (s : State) (a : Nat) (v : Pixel) : State :=
  { s with pix := spliceCells a 1 (fun _ => some v) s.pix }

/-- The canonical form of pixel memory: addresses strictly rising and below 2^32. An unlisted cell is one nothing has
written; it has no value an entry could repeat. -/
abbrev Memory.wf (m : List (Nat × Pixel)) : Prop :=
  SortedCells m ∧ ∀ c ∈ m, c.1 < 2 ^ 32

/-- How a command meets pixel memory: which addresses exist and what they read as at its access number `n`, and which
cells the host wrote during the command and may therefore keep the host's value (R332). -/
structure PixAccess where
  mapped : Nat → Nat → Bool
  value : Nat → Nat → Pixel
  keeps : Nat → Nat → Bool

/-- The accesses of a command the host leaves alone (R10): pixel memory as it stands (R75). -/
def quietAccess (s : State) : PixAccess :=
  { mapped := fun _ a => s.mapped a
    value := fun _ a => s.pixel a
    keeps := fun _ _ => false }

/-- `PixRead(addr)` at access number `n`; `none` is F_MEM (R67). -/
def PixAccess.read (acc : PixAccess) (n a : Nat) : Option Pixel :=
  if acc.mapped n a then some (acc.value n a) else none

/-! ### Recording a fault -/

/-- The code STATUS.FCODE records for each cause (R291). -/
def FaultCode.number : FaultCode → BitVec 4
  | .illegalCmd => 1
  | .notReady => 2
  | .badGeometry => 3
  | .badImage => 4
  | .busy => 5
  | .mem => 6
  | .badIndex => 7

/-- `raise Fault(code)`: the first code is kept, the command ends, BUSY becomes 0, nothing else is written (R296). There
is no vector, no saved state and no return (R290, R308). -/
def raiseFault (c : FaultCode) (s : State) : State :=
  if s.fault then { s with running := none }
  else { s with fault := true, fcode := c.number, running := none }

/-- Calibration with every field a free value of its range. -/
def freeCalibration (d : Nat) : Calibration :=
  { brightness := (Config.freeField d 2 % 201 : Nat) - 100
    contrast := (Config.freeField d 3 % 256 : Nat)
    saturation := (Config.freeField d 4 % 256 : Nat)
    blackPoint := (Config.freeField d 5 % 51 : Nat)
    whitePoint := 60 + (Config.freeField d 6 % 68 : Nat) }

/-- A transaction arrived while a command executes (R300, R331): F_BUSY is recorded, the command is abandoned, `ready`
keeps its value, and every other piece of Device state, both buffers and every pixel cell hold free values (log 8). -/
def busyFault (s : State) : State :=
  raiseFault .busy
    { s with
      analog := SampleBuf.open
      raw := SampleBuf.open
      hsync := Config.freeField s.draws 0 % hres
      vsync := Config.freeField s.draws 1 % vres
      cal := freeCalibration s.draws
      outw := 1 + Config.freeField s.draws 7 % s.params.maxDim
      outh := 1 + Config.freeField s.draws 8 % s.params.maxDim
      outBase := BitVec.ofNat 32 (Config.freeField s.draws 9)
      rng := BitVec.ofNat 32 (Config.freeField s.draws 10)
      pix := []
      pixEpoch := s.pixEpoch + 1
      draws := s.draws + 1 }

/-! ### The gate of every command -/

/-- What the checks before a command find. -/
inductive Verdict where
  | ignored
  | busy
  | notReady
  | runs
deriving DecidableEq, Repr

/-- The checks before a command, in the order of R120 with F_BUSY before the other faults (R295). -/
def verdict (needsReady : Bool) (s : State) : Verdict :=
  if s.fault then .ignored
  else if s.busy then .busy
  else if needsReady && !s.ready then .notReady
  else .runs

/-- What every command does first (R120): a faulted block ignores it (R297); a busy block records F_BUSY (R300); a command
that needs the Device records F_NOT_READY before INIT (R299). -/
def gate (needsReady : Bool) (s : State) (body : State → State) : Out :=
  match verdict needsReady s with
  | .ignored => .next s
  | .busy => .next (busyFault s)
  | .notReady => .next (raiseFault .notReady s)
  | .runs => .next (body s)

end Sys2Proof.Machine
end

