-- ==== Sys2Proof/Machine/Operands.lean ====
section
/-! DEFINITION. The operand forms of the commands and ports: the dimension check (R293, R294), the coordinates of an
image in pixel memory (R69, R148, R254), and the calibration registers a register index names (R34, R36). -/

namespace Sys2Proof.Machine

/-- A width or a height is 0 or above MAX_DIM (R293, R294). -/
def badDims (s : State) (w h : Nat) : Bool :=
  w == 0 || decide (s.params.maxDim < w) || h == 0 || decide (s.params.maxDim < h)

/-- Cell of column `x`, row `y` of an image of width `w` at base `b` (R69). -/
def imageCell (b w x y : Nat) : Nat := b + y * w + x

/-- Source column of active sample `x` (R148). -/
def sourceColumn (w x : Nat) : Nat := x * w / avLen

/-- Source row of picture row `y` in a field of parity `f` (R148). -/
def sourceRow (h y : Nat) (f : Bool) : Nat := min (h - 1) ((2 * y + f.toNat) * h / 480)

/-- Picture line of output row `oy` (R254). -/
def pictureLine (outh oy : Nat) : Nat := oy * nlines / outh

/-- Picture column of output column `ox` (R254). -/
def pictureColumn (outw ox : Nat) : Nat := ox * 736 / outw

/-- A calibration write: the value is read as signed and clamped to the field's range (R36). -/
def writeCalibration (c : Calibration) (i : Nat) (v : Word) : Calibration :=
  match i with
  | 0x3 => { c with brightness := clamp v.toInt (-100) 100 }
  | 0x4 => { c with contrast := clamp v.toInt 0 255 }
  | 0x5 => { c with saturation := clamp v.toInt 0 255 }
  | 0x6 => { c with blackPoint := clamp v.toInt 0 50 }
  | 0x7 => { c with whitePoint := clamp v.toInt 60 127 }
  | _ => c

/-- The register indices a write reaches (R34, R36). -/
def writableReg (i : Nat) : Bool := 0x3 ≤ i && i ≤ 0x7

end Sys2Proof.Machine
end

