-- ==== Sys2Proof/Machine/Demodulate.lean ====
section
/-! DEFINITION. The Demodulator, third stage of DECODE (R240 to R262). `raw` is the raw-input buffer as integers. -/

namespace Sys2Proof.Machine

/-- A burst as a vector in the decoder's frame (R242). -/
structure BurstVec where
  bc : Int
  bs : Int
deriving DecidableEq, Repr

/-- GATE_BEG, GATE_LEN and KILL (R242). -/
abbrev gateBeg : Nat := 101
abbrev gateLen : Nat := 32
abbrev kill : Int := 160

/-- The quadrature sums over the burst gate of a line that starts at `sn` (R242), before the colour killer. -/
def gateSums (raw : Nat → Int) (sn : Nat) : BurstVec :=
  { bc := sumTo gateLen fun i => let a := wrapIndex ((sn : Int) + gateBeg + i); raw a * cos4 a
    bs := sumTo gateLen fun i => let a := wrapIndex ((sn : Int) + gateBeg + i); raw a * sin4 a }

/-- The burst of a line: a burst weaker than KILL counts as none (R242). -/
def lineBurst (raw : Nat → Int) (sn : Nat) : BurstVec :=
  let b := gateSums raw sn
  if |b.bc| + |b.bs| < kill then ⟨0, 0⟩ else b

/-- The reference carrier in phase with the Q axis (R243). -/
def refCos (b : BurstVec) (a : Nat) : Int := -(b.bc * cos4 a + b.bs * sin4 a)

/-- The reference carrier in phase with the I axis (R243). -/
def refSin (b : BurstVec) (a : Nat) : Int := -(b.bc * sin4 a - b.bs * cos4 a)

/-- The luma kernel `[1, 2, 2, 2, 1]` (R244). -/
def lumaTap (j : Nat) : Int := if j = 0 ∨ j = 4 then 1 else 2

/-- The chroma kernel, the triangle `1 .. 8 .. 1` of 15 taps (R245). -/
def chromaTap (j : Nat) : Int := if j ≤ 7 then (j : Int) + 1 else 15 - j

/-- Luma at offset `t`, in eighths of a sample unit (R244). -/
def luma8 (raw : Nat → Int) (sn t : Nat) : Int :=
  sumTo 5 fun j => lumaTap j * raw (wrapIndex ((sn : Int) + t + j - 2))

/-- The product of the signal with a reference carrier, low-pass filtered, at offset `t` (R245). -/
def mixDown (raw : Nat → Int) (carrier : Nat → Int) (sn t : Nat) : Int :=
  sumTo 15 fun j => let a := wrapIndex ((sn : Int) + t + j - 7); chromaTap j * raw a * carrier a

/-- `q8`: Q in eighths of a sample unit (R245, R246). -/
def chromaQ (raw : Nat → Int) (b : BurstVec) (sn t : Nat) : Int := fdiv (mixDown raw (refCos b) sn t) 1280

/-- `i8`: I in eighths of a sample unit (R245, R246). -/
def chromaI (raw : Nat → Int) (b : BurstVec) (sn t : Nat) : Int := fdiv (mixDown raw (refSin b) sn t) 1280

/-- Contrast, brightness, black and white point on luma (R247, R248, R250). -/
def calibrateLuma (c : Calibration) (y8 : Int) : Int :=
  let y1 := shr (y8 * c.contrast) 7
  let y2 := y1 + 8 * c.brightness
  let ky := fdiv (255 * 65536) (8 * (c.whitePoint - c.blackPoint))
  clamp (shr ((y2 - 8 * c.blackPoint) * ky + 32768) 16) 0 255

/-- KC, the fixed chroma output gain (R249). -/
abbrev chromaGain : Int := 22461

/-- Saturation and output gain on I or Q (R249). -/
def calibrateChroma (c : Calibration) (v8 : Int) : Int :=
  let v1 := shr (v8 * c.saturation) 7
  shr (v1 * chromaGain + 32768) 16

/-- One picture column: its three channels and its luma. -/
structure Column where
  r : Int
  g : Int
  b : Int
  y : Int
deriving DecidableEq, Repr

/-- The inverse colour matrix (R251). -/
def toRGB (y i q : Int) : Column :=
  { r := clamp (y + shr (3917 * i + 2544 * q + 2048) 12) 0 255
    g := clamp (y + shr (-1115 * i - 2652 * q + 2048) 12) 0 255
    b := clamp (y + shr (-4534 * i + 6982 * q + 2048) 12) 0 255
    y := y }

/-- Picture column `xv` of the line that starts at `sn`, before bloom (R241, R253). -/
def sharpColumn (raw : Nat → Int) (c : Calibration) (b : BurstVec) (sn xv : Nat) : Column :=
  let t := 164 + xv
  toRGB (calibrateLuma c (luma8 raw sn t)) (calibrateChroma c (chromaI raw b sn t))
    (calibrateChroma c (chromaQ raw b sn t))

/-- The bloom kernel `[1, 2, 3, 4, 3, 2, 1]` (R252). -/
def bloomTap (j : Nat) : Int := if j ≤ 3 then (j : Int) + 1 else 7 - j

/-- One channel blurred around column `xv`; a column outside 0..735 counts as 0 (R252). -/
def blur (ch : Nat → Int) (xv : Nat) : Int :=
  shr (sumTo 7 fun j => if 3 ≤ xv + j ∧ xv + j - 3 ≤ 735 then bloomTap j * ch (xv + j - 3) else 0) 4

/-- One channel moved towards its blurred value in proportion to the blurred luma (R252). -/
def bloomMix (v blurred strength : Int) : Int := v + shr ((blurred - v) * strength) 8

/-- The bloom pass at column `xv` of a line of columns `p` (R252). -/
def bloomColumn (p : Nat → Column) (xv : Nat) : Column :=
  let k := blur (fun x => (p x).y) xv
  { r := bloomMix (p xv).r (blur (fun x => (p x).r) xv) k
    g := bloomMix (p xv).g (blur (fun x => (p x).g) xv) k
    b := bloomMix (p xv).b (blur (fun x => (p x).b) xv) k
    y := (p xv).y }

/-- Picture column `xv` of the line that starts at `sn` (R253). -/
def lineColumn (raw : Nat → Int) (c : Calibration) (bloomEn : Bool) (sn xv : Nat) : Column :=
  let b := lineBurst raw sn
  if bloomEn then bloomColumn (sharpColumn raw c b sn) xv else sharpColumn raw c b sn xv

/-- `r·65536 + g·256 + b` (R255). -/
def packPixel (c : Column) : Pixel := BitVec.ofInt 24 (c.r * 65536 + c.g * 256 + c.b)

/-- The value DECODE writes to cell `i` of an output buffer of `outw × outh` cells, `i = oy·outw + ox`; `start n` is the
line table (R240, R254, R255). -/
def outputPixel (raw : Nat → Int) (start : Nat → Nat) (c : Calibration) (bloomEn : Bool) (outw outh i : Nat) : Pixel :=
  packPixel
    (lineColumn raw c bloomEn (start (top + pictureLine outh (i / outw))) (pictureColumn outw (i % outw)))

end Sys2Proof.Machine
end

