-- ==== Sys2Proof/Machine/Noise.lean ====
section
/-! DEFINITION. The Noise Injector, first stage of DECODE (R183 to R186). -/

namespace Sys2Proof.Machine

/-- `NextRng(r) = (214019·r + 140327895) mod 2^32` (R183). -/
def nextRng (r : Word) : Word := 214019 * r + 140327895

/-- `r8 = bits[23:16]` of the generator's word (R184). -/
def rngByte (r : Word) : Int := (r.extractLsb' 16 8).toNat

/-- The deviation a generator word gives at a noise level (R184); floor, unbounded integers (R185). -/
def deviation (noise : Nat) (r : Word) : Int := shr ((rngByte r - 127) * noise) 8

/-- The raw-input sample of an analog sample (R184). -/
def noisySample (noise : Nat) (r : Word) (a : Int) : Int := clamp (a + deviation noise r) (-127) 127

/-- The generator after `n` steps. -/
def rngAfter : Nat → Word → Word
  | 0, r => r
  | n + 1, r => nextRng (rngAfter n r)

/-- The noise stage over the first `n` cells, in order: the raw-input samples and the generator's last word (R184). The
generator steps once per cell whatever the noise level. -/
def noiseStage (noise : Nat) (analog : Nat → Int) (r : Word) (n : Nat) : Array Int × Word :=
  (List.range n).foldl
    (fun acc k => (acc.1.push (noisySample noise (nextRng acc.2) (analog k)), nextRng acc.2)) (#[], r)

end Sys2Proof.Machine
end

