-- ==== Sys2Proof/Machine/SyncTracker.lean ====
section
/-! DEFINITION. The Sync Tracker, second stage of DECODE (R200 to R220): a pure function of the raw-input samples and of
the two persistent counters. -/

namespace Sys2Proof.Machine

/-- The tracker's four states (R202, conflict C3). -/
inductive TrackMode where
  | searchingH
  | lockedH
  | searchingV
  | lockedField
deriving DecidableEq, Repr

/-- The tracker's transient state (R202); `lvl` is true while the debounced level is low, `edges` lists
`E[0]`, `E[1]`, … as they are resolved. -/
structure Tracker where
  st : TrackMode
  lvl : Bool
  run : Nat
  lastfall : Option Int
  cand : Option Int
  good : Nat
  miss : Nat
  shortc : Nat
  hnext : Int
  m : Nat
  edges : List Int
  vfound : Bool
  vline : Int
deriving DecidableEq, Repr

/-- The tracker's constants (R201). -/
abbrev tSync : Int := -20
abbrev deb : Nat := 8
abbrev hTol : Int := 8
abbrev lockN : Nat := 2
abbrev missMax : Nat := 4
abbrev shortN : Nat := 3
abbrev broadMin : Int := 200
abbrev pre : Nat := 8
abbrev nl : Nat := 270

/-- The tracker at the start of every DECODE (R202). -/
def trackerStart : Tracker :=
  { st := .searchingH, lvl := false, run := 0, lastfall := none, cand := none, good := 0, miss := 0, shortc := 0,
    hnext := 21, m := 0, edges := [], vfound := false, vline := 0 }

/-- `pos` follows the earlier edge by `period` samples within ±H_TOL (R205). -/
def follows (earlier : Option Int) (pos period : Int) : Bool :=
  match earlier with
  | none => false
  | some e => |pos - e - period| ≤ hTol

/-- Step 1 of the falling-edge handler: count short periods (R205). -/
def countShort (pos : Int) (t : Tracker) : Tracker :=
  { t with
    shortc := if follows t.lastfall pos half then t.shortc + 1 else 0
    lastfall := some pos }

/-- Step 2: the mode changes on the short-period count (R205, R206). -/
def shortModes (t : Tracker) : Tracker :=
  if t.st = .lockedH ∧ shortN ≤ t.shortc then { t with st := .searchingV }
  else if t.st = .searchingV ∧ t.shortc = 0 then { t with st := .lockedH }
  else t

/-- Step 3: the horizontal search (R205, R207). -/
def searchLine (pos : Int) (t : Tracker) : Tracker :=
  if t.st = .searchingH then
    let good := if follows t.cand pos hres then t.good + 1 else 0
    if lockN ≤ good then { t with good := good, cand := some pos, st := .lockedH, miss := 0, hnext := pos }
    else { t with good := good, cand := some pos }
  else t

/-- Step 4: the horizontal tracking (R205, R208). -/
def trackLine (pos : Int) (t : Tracker) : Tracker :=
  if t.st ≠ .searchingH ∧ |pos - t.hnext| ≤ hTol then
    { t with edges := t.edges ++ [pos], m := t.m + 1, hnext := pos + hres, miss := 0 }
  else t

/-- The falling-edge handler (R205). -/
def fall (pos : Int) (t : Tracker) : Tracker :=
  trackLine pos (searchLine pos (shortModes (countShort pos t)))

/-- The rising-edge handler (R209). It takes every low pulse of 200 samples met in SEARCHING_V for the boundary, one that
picture samples make too: the model follows R205 to R215 where the sentence of R219 on `vs1` says less (DEDUCED, log 23). -/
def rise (pos : Int) (t : Tracker) : Tracker :=
  match t.lastfall with
  | none => t
  | some f =>
    if t.st = .searchingV ∧ broadMin ≤ pos - f then
      { t with st := .lockedField, vfound := true, vline := (t.m : Int) - 1 }
    else t

/-- Slicer and debouncer on sample `x` at scan index `j` (R204). -/
def slice (x : Int) (j : Nat) (t : Tracker) : Tracker :=
  let low : Bool := x < tSync
  let run := if low != t.lvl then t.run + 1 else 0
  if run = deb then
    let t := { t with lvl := low, run := 0 }
    if low then fall ((j : Int) - 7) t else rise ((j : Int) - 7) t
  else { t with run := run }

/-- Resolution by timeout, and loss of lock (R210). -/
def timeout (j : Nat) (t : Tracker) : Tracker :=
  if t.m < nl ∧ t.hnext + 15 ≤ (j : Int) then
    let t := { t with edges := t.edges ++ [t.hnext], m := t.m + 1, hnext := t.hnext + hres }
    if t.st ≠ .searchingH then
      if missMax ≤ t.miss + 1 then { t with miss := t.miss + 1, st := .searchingH, good := 0, cand := none }
      else { t with miss := t.miss + 1 }
    else t
  else t

/-- One sample of the scan: slicer first, then the timeout (R203). -/
def scanStep (x : Int) (j : Nat) (t : Tracker) : Tracker := timeout j (slice x j t)

/-- The scan from index `j`, until 270 lines are resolved (R203); `x j` is the sample at scan index `j`. The first
argument bounds the number of samples. -/
def scan (x : Nat → Int) : Nat → Nat → Tracker → Tracker
  | 0, _, t => t
  | fuel + 1, j, t => if t.m < nl then scan x fuel (j + 1) (scanStep (x j) j t) else t

/-- The bound of R211 on the length of a scan: no scan reaches it with lines left (log 20). -/
def scanBound : Nat := 270 * 918 + 23

/-- Buffer index of scan index 0 (R203). -/
def scanOrigin (hs0 vs0 : Nat) : Nat :=
  wrapIndex ((((vs0 : Int) - pre) % vres) * hres + hs0)

/-- The whole scan of a raw-input signal from the persisted counters (R203). -/
@[irreducible] def runScan (raw : Nat → Int) (hs0 vs0 : Nat) : Tracker :=
  scan (fun j => raw ((scanOrigin hs0 vs0 + j) % bufLen)) scanBound 0 trackerStart

/-- `S[n]`, the buffer index at which field line `n` starts (R213). -/
def lineStart (hs0 vs0 : Nat) (t : Tracker) (n : Nat) : Nat :=
  wrapIndex ((scanOrigin hs0 vs0 : Int) + t.edges.getD (n + pre) 0 - syncBeg)

/-- The new horizontal counter (R214). The drift is taken modulo 910 whatever its size: the model follows R214 where a signal
that loses and regains lock again and again drifts below the bound of R220 (DEDUCED, log 24). -/
def newHsync (hs0 : Nat) (t : Tracker) : Nat :=
  (((hs0 : Int) + (t.hnext - 21 - 270 * 910)) % hres).toNat

/-- The new vertical counter (R215), from whatever boundary `rise` confirmed (log 23). -/
def newVsync (vs0 : Nat) (t : Tracker) : Nat :=
  if t.vfound then (((vs0 : Int) - 8 + t.vline - 3) % vres).toNat else vs0

end Sys2Proof.Machine
end

