-- ==== Sys2Proof/Machine/DecodeCommand.lean ====
section
/-! DEFINITION. Command DECODE (R180 to R182): noise injector, sync tracker, demodulator, in that order. -/

namespace Sys2Proof.Machine

/-- What one DECODE computes before it writes a pixel: the raw-input samples, the generator, the scan, and the value of
each cell of the output buffer. A local value of the command, not state (R33). -/
structure DecodeResult where
  raw : Nat → Int
  rng : Word
  hsync : Nat
  vsync : Nat
  cell : Nat → Pixel

/-- The second and third stage of a DECODE, the tracker and the demodulator, on what the noise stage left: the raw-input
samples and the generator (R62, R180). -/
def stagesAfterNoise (noisy : Array Int × Word) (s : State) : DecodeResult :=
  let raw := fun k => noisy.1.getD k 0
  let t := runScan raw s.hsync s.vsync
  { raw := raw
    rng := noisy.2
    hsync := newHsync s.hsync t
    vsync := newVsync s.vsync t
    cell := outputPixel raw (lineStart s.hsync s.vsync t) s.cal s.params.bloomEn s.outw s.outh }

/-- The three stages of a DECODE at noise level `noise` (R180). An analog cell that is unspecified reads as a free value
(no reachable state has one when DECODE runs; log 3). -/
@[irreducible] def decodeStages (noise : Nat) (s : State) : DecodeResult :=
  let analog := s.analog.values s.draws
  stagesAfterNoise (noiseStage noise (fun k => analog.getD k 0) s.rng bufLen) s

/-- Number of cells of the bound output buffer (R31). -/
def State.outCells (s : State) : Nat := s.outw * s.outh

/-- The output buffer's first cell (R31). -/
def State.outStart (s : State) : Nat := s.outBase.toNat

/-- Pixel memory after cells of the output buffer were written: cell `i` becomes `cell i` where `wrote i`, and keeps
what it held elsewhere (R255, R298). -/
def writeOutput (s : State) (wrote : Nat → Bool) (cell : Nat → Pixel) : List (Nat × Pixel) :=
  spliceCells s.outStart s.outCells
    (fun i => if wrote i then some (cell i) else findCell s.pix (s.outStart + i)) s.pix

/-- Every cell of the output buffer is mapped (R298). -/
def outputMapped (acc : PixAccess) (s : State) : Bool :=
  (List.range s.outCells).all fun i => acc.mapped i (s.outStart + i)

/-- What DECODE writes before its first pixel write: the raw-input buffer, the generator, the sync counters (R180); the
free values it may have read are spent (log 2). -/
def storeStages (r : DecodeResult) (s : State) : State :=
  { s with
    raw := SampleBuf.ofFn r.raw
    rng := r.rng
    hsync := r.hsync
    vsync := r.vsync
    draws := s.draws + 1 }

/-- DECODE after the gate (R180): first the stages' results, then every output cell (R255). With an unmapped cell F_MEM is
recorded and each mapped cell holds its old or its new value, a free choice (R298; log 9). -/
def decodeBy (acc : PixAccess) (noise : Nat) (s : State) : State :=
  let r := decodeStages noise s
  if outputMapped acc s then
    { storeStages r s with pix := writeOutput s (fun i => !acc.keeps i (s.outStart + i)) r.cell }
  else
    raiseFault .mem
      { storeStages r s with
        pix := writeOutput s
          (fun i => acc.mapped i (s.outStart + i) && !acc.keeps i (s.outStart + i) && Config.freeChoice s.draws i)
          r.cell }

/-- DECODE (R180). -/
def execDecode (noiseLevel : Nat) (s : State) : Out :=
  gate true s fun s => decodeBy (quietAccess s) noiseLevel s

end Sys2Proof.Machine
end

