-- ==== Sys2Proof/Machine/DeviceCommands.lean ====
section
/-! DEFINITION. The Device State commands INIT, RESIZE, RESET (R121 to R127). -/

namespace Sys2Proof.Machine

/-- The output geometry and buffer bound (R31, R123); no pixel access is made. -/
def bindOutput (w h p : Nat) (s : State) : State :=
  { s with outw := w, outh := h, outBase := BitVec.ofNat 32 p }

/-- The five calibration values at their defaults (R124). -/
def defaultCalibration (s : State) : State :=
  { s with cal := Calibration.default }

/-- The rest of what INIT writes (R121): buffer and counters zeroed, generator seeded with RNG_SEED, Device ready. The
raw-input buffer counts as unspecified again (R38, R64; log 16). -/
def createDevice (s : State) : State :=
  { s with
    analog := SampleBuf.zeros
    raw := SampleBuf.open
    hsync := 0
    vsync := 0
    rng := 194
    ready := true }

/-- INIT (R121, R122): the dimensions are checked before any state changes. -/
def execInit (width height outputBuffer : Nat) (s : State) : Out :=
  gate false s fun s =>
    if badDims s width height then raiseFault .badGeometry s
    else createDevice (defaultCalibration (bindOutput width height outputBuffer s))

/-- RESIZE (R123): the binding only. -/
def execResize (width height outputBuffer : Nat) (s : State) : Out :=
  gate true s fun s =>
    if badDims s width height then raiseFault .badGeometry s
    else bindOutput width height outputBuffer s

/-- RESET (R124): the calibration only. -/
def execReset (s : State) : Out :=
  gate true s defaultCalibration

end Sys2Proof.Machine
end

