-- ==== Sys2Proof/Machine/Modulate.lean ====
section
/-! DEFINITION. The Modulator, command MODULATE (R140 to R157). -/

namespace Sys2Proof.Machine

/-- Phase index of buffer cell `a` in a field of parity `f` (R141). -/
def theta (a : Nat) (f : Bool) : Nat := (a + 2 * f.toNat) % 4

/-- The colour burst at buffer cell `a` (R147). -/
def burstSample (a : Nat) (f : Bool) : Int := blank - burstAmp * cos4 (theta a f)

/-- Line `n` carries equalizing pulses (R145). -/
def equalizingLine (n : Nat) : Bool := n ≤ 2 || (6 ≤ n && n ≤ 8)

/-- Line `n` carries broad pulses (R145). -/
def broadLine (n : Nat) : Bool := 3 ≤ n && n ≤ 5

/-- Offset `t` lies in one of the two pulses of width `w` of a line of the vertical interval (R144). -/
def inPulsePair (w t : Nat) : Bool :=
  (syncBeg ≤ t && t < syncBeg + w) || (syncBeg + half ≤ t && t < syncBeg + half + w)

/-- The template of field line `n` at offset `t`: everything but the picture (R146). -/
def templateSample (n t : Nat) (c f : Bool) : Int :=
  if equalizingLine n then (if inPulsePair eqW t then syncTip else blank)
  else if broadLine n then (if inPulsePair broadW t then syncTip else blank)
  else if syncBeg ≤ t && t < syncEnd then syncTip
  else if cbBeg ≤ t && t < cbBeg + cbLen && c then burstSample (hres * n + t) f
  else blank

/-- Luma and chroma at ten bits. -/
structure YIQ where
  y : Int
  i : Int
  q : Int
deriving DecidableEq, Repr

/-- R, G, B of a pixel cell: `bits[23:16]`, `bits[15:8]`, `bits[7:0]` (R68). -/
def Pixel.red (p : Pixel) : Int := (p.extractLsb' 16 8).toNat
def Pixel.green (p : Pixel) : Int := (p.extractLsb' 8 8).toNat
def Pixel.blue (p : Pixel) : Int := (p.extractLsb' 0 8).toNat

/-- The colour matrix (R150); without colour the chroma components are 0 (R151). -/
def lumaChroma (p : Pixel) (c : Bool) : YIQ :=
  let r := Pixel.red p
  let g := Pixel.green p
  let b := Pixel.blue p
  { y := shr (19595 * r + 38470 * g + 7471 * b) 14
    i := if c then shr (39053 * r - 17996 * g - 21057 * b) 14 else 0
    q := if c then shr (13861 * r - 34256 * g + 20395 * b) 14 else 0 }

/-- The composite sample of a pixel at carrier phase `th` (R152). -/
def activeSample (p : Pixel) (c : Bool) (th : Nat) : Int :=
  let k := lumaChroma p c
  let v := k.y + k.q * cos4 th + k.i * sin4 th
  clamp (black + shr (v * 5975 + 32768) 16) avMin avMax

/-- Offset `t` of line `n` carries the picture (R145, R146). -/
def inPicture (n t : Nat) : Bool :=
  top ≤ n && n < top + nlines && avBeg ≤ t && t < avBeg + avLen

/-- The pixel address buffer cell `k` is computed from, for a cell of the picture (R148). -/
def sourceAddr (image w h : Nat) (f : Bool) (k : Nat) : Nat :=
  imageCell image w (sourceColumn w (k % hres - avBeg)) (sourceRow h (k / hres - top) f)

/-- The sample MODULATE writes to buffer cell `k`, `none` where its pixel read is unmapped (R140, R146, R152). -/
def fieldSample (acc : PixAccess) (image w h : Nat) (c f : Bool) (k : Nat) : Option Int :=
  if inPicture (k / hres) (k % hres) then
    (acc.read k (sourceAddr image w h f k)).map fun p => activeSample p c (theta k f)
  else some (templateSample (k / hres) (k % hres) c f)

/-- Every pixel read of the command is mapped (R298). -/
@[irreducible] def fieldMapped (acc : PixAccess) (image w h : Nat) (c f : Bool) : Bool :=
  (List.range bufLen).all fun k => (fieldSample acc image w h c f k).isSome

/-- MODULATE after the gate (R140): bad dimensions fault before any cell is written; an unmapped read leaves every
analog cell unspecified (R298); otherwise every cell of the analog buffer is written and nothing else. -/
def modulateBy (acc : PixAccess) (image w h : Nat) (c f : Bool) (s : State) : State :=
  if badDims s w h then raiseFault .badImage s
  else if fieldMapped acc image w h c f then
    { s with analog := SampleBuf.ofFn fun k => (fieldSample acc image w h c f k).getD 0 }
  else raiseFault .mem { s with analog := SampleBuf.open }

/-- MODULATE (R140). -/
def execModulate (image width height : Nat) (colorEnabled fieldParity : Bool) (s : State) : Out :=
  gate true s fun s => modulateBy (quietAccess s) image width height colorEnabled fieldParity s

end Sys2Proof.Machine
end

