-- ==== Sys2Proof/Machine/Dispatch.lean ====
section
/-! DEFINITION. The meaning of each command, one arm per constructor of `Instr`. -/

namespace Sys2Proof.Machine

def exec (i : Instr) (s : State) : Host.Outcome State Fault Refusal :=
  match i with
  | .init width height outputBuffer => Sys2Proof.Machine.execInit width height outputBuffer s
  | .resize width height outputBuffer => Sys2Proof.Machine.execResize width height outputBuffer s
  | .reset => Sys2Proof.Machine.execReset s
  | .modulate image width height c f => Sys2Proof.Machine.execModulate image width height c f s
  | .decode noise => Sys2Proof.Machine.execDecode noise s

end Sys2Proof.Machine
end

