-- ==== Sys2Proof/Machine/Flags.lean ====
section
/-! DEFINITION. STATUS (R30), and the word each register index reads as (R34, R35). -/

namespace Sys2Proof.Machine

/-- STATUS: `0[31:9] ‖ BLOOM ‖ FCODE[3:0] ‖ 0 ‖ FAULT ‖ READY ‖ BUSY` (R30). -/
def statusWord (s : State) : Word :=
  0#23 ++ BitVec.ofBool s.params.bloomEn ++ s.fcode ++ 0#1 ++ BitVec.ofBool s.fault ++ BitVec.ofBool s.ready
    ++ BitVec.ofBool s.busy

/-- The field a register index below 0xC holds, as a 32-bit word; two's complement for brightness (R34, R35). -/
def registerField (s : State) (i : Nat) : Word :=
  match i with
  | 0x0 => statusWord s
  | 0x1 => BitVec.ofNat 32 s.hsync
  | 0x2 => BitVec.ofNat 32 s.vsync
  | 0x3 => BitVec.ofInt 32 s.cal.brightness
  | 0x4 => BitVec.ofInt 32 s.cal.contrast
  | 0x5 => BitVec.ofInt 32 s.cal.saturation
  | 0x6 => BitVec.ofInt 32 s.cal.blackPoint
  | 0x7 => BitVec.ofInt 32 s.cal.whitePoint
  | 0x8 => BitVec.ofNat 32 s.outw
  | 0x9 => BitVec.ofNat 32 s.outh
  | 0xA => s.outBase
  | 0xB => s.rng
  | _ => 0

/-- F_BUSY has left every Device field but `ready`, `fault`, `fcode` unspecified (R331). -/
def State.scrambled (s : State) : Bool := s.fault && s.fcode == FaultCode.busy.number

/-- The word `RegRead(i)` answers (R35): STATUS always; while a command executes any other register reads as a free
value (R300, U14); reserved indices read 0 (R37); before INIT (U2), and after F_BUSY (R331), the rest are free values,
a fresh one at each read. -/
def regValue (s : State) (i : Nat) : Word :=
  if i = 0x0 then statusWord s
  else if s.busy then Config.freeWord s.draws
  else if 0xC ≤ i then 0
  else if !s.ready || s.scrambled then Config.freeWord s.draws
  else registerField s i

end Sys2Proof.Machine
end

