-- ==== Sys2Proof/Machine/Ports.lean ====
section
/-! DEFINITION. The register port (R34 to R37) and the sample port (R64, R65). A read changes nothing of the block; the
model records its answer and counts the free value it may have used (log 2, log 6). -/

namespace Sys2Proof.Machine

/-- A read transaction answers `v`. -/
def answer (v : Reply) (s : State) : State :=
  { s with reply := some v, draws := s.draws + 1 }

/-- `RegRead(i)` (R35). -/
def regRead (i : Nat) (s : State) : State := answer (.word (regValue s i)) s

/-- `RegWrite(i, v)` (R36): ignored after a fault (R297), F_BUSY while a command executes (R300), ignored for a read-only
or reserved index (R37), F_NOT_READY before INIT (R299), else the field is written clamped. -/
def regWrite (i : Nat) (v : Word) (s : State) : State :=
  if s.fault then s
  else if s.busy then busyFault s
  else if !writableReg i then s
  else if !s.ready then raiseFault .notReady s
  else { s with cal := writeCalibration s.cal i v }

/-- `AnaRead(k)` (R64): before INIT (U3), outside the buffer (R65), while a command executes (U14), any value. -/
def anaValue (s : State) (k : Nat) : Sample :=
  if !s.ready || s.busy || bufLen ≤ k then Config.freeSample s.draws k else s.analog.get s.draws k

/-- `RawRead(k)` (R64); a raw buffer no DECODE has filled since INIT is unspecified and reads as any value (R335). -/
def rawValue (s : State) (k : Nat) : Sample :=
  if s.busy || bufLen ≤ k then Config.freeSample s.draws k else s.raw.get s.draws k

/-- `AnaRead(k)` as a transaction (R64). -/
def anaRead (k : Nat) (s : State) : State := answer (.sample (anaValue s k)) s

/-- `RawRead(k)` as a transaction (R64). -/
def rawRead (k : Nat) (s : State) : State := answer (.sample (rawValue s k)) s

/-- `AnaWrite(k, v)` (R64): the checks in the order F_BUSY, F_NOT_READY, F_BAD_INDEX (R295, R301). -/
def anaWrite (k : Nat) (v : Sample) (s : State) : State :=
  if s.fault then s
  else if s.busy then busyFault s
  else if !s.ready then raiseFault .notReady s
  else if bufLen ≤ k then raiseFault .badIndex s
  else { s with analog := s.analog.set k v }

end Sys2Proof.Machine
end

