-- ==== Sys2Proof/Machine/Hazards.lean ====
section
/-! DEFINITION. Commands in progress and what happens to them: begin and completion, host and platform accesses while a
command executes (R325, R332), power-on reset during a command (R322). -/

namespace Sys2Proof.Machine

/-! ### Beginning and completing a command -/

/-- The command's operands pass its own check (R293, R294). -/
def operandsOk (s : State) : Instr → Bool
  | .init w h _ => !badDims s w h
  | .resize w h _ => !badDims s w h
  | .reset => true
  | .modulate _ w h _ _ => !badDims s w h
  | .decode _ => true

/-- The command needs a Device (R120). -/
def needsReady : Instr → Bool
  | .init _ _ _ => false
  | .resize _ _ _ => true
  | .reset => true
  | .modulate _ _ _ _ _ => true
  | .decode _ => true

/-- The command passes every check made before it executes (R295), so the block becomes busy with it. -/
def canRun (i : Instr) (s : State) : Bool :=
  !s.fault && !s.busy && (s.ready || !needsReady i) && operandsOk s i

/-- A packet arrives (R120): ignored after a fault, F_BUSY while a command executes, F_ILLEGAL_CMD if it does not decode,
else `go` with the command. -/
def onPacket (p : Packet) (s : State) (go : Instr → State → Out) : Out :=
  if s.fault then .next s
  else if s.busy then .next (busyFault s)
  else match decode p with
    | .illegal _ => .next (raiseFault .illegalCmd s)
    | .command i => go i s

/-- A packet whose completion the host waits for: the whole command in one step (R10). -/
def runPacket (p : Packet) (s : State) : Out := onPacket p s exec

/-- A packet whose completion the host does not wait for: the command is in progress, or ends at once in the fault one of
its checks raises. -/
def startPacket (p : Packet) (s : State) : Out :=
  onPacket p s fun i s =>
    if canRun i s then .next { s with running := some ⟨i, [], []⟩ } else exec i s

/-- One of the values `v :: older`, an open choice. -/
def pickAmong {α : Type} (n : Nat) (v : α) (older : List α) : α := (v :: older).getD (n % (older.length + 1)) v

/-- The values cell `a` had since the command began, latest first, without its present one. -/
def earlierValues (r : Running) (a : Nat) : List Pixel :=
  (r.writes.filter fun w => w.addr = a).map HostWrite.before

/-- The accesses of a command during which the host wrote pixel cells or the platform changed the map: each access sees
an old or the new value (R332) and an old or the new map (log 13); a cell of the output buffer the host wrote may keep
the host's value (log 10). -/
def racedAccess (r : Running) (s : State) : PixAccess :=
  { mapped := fun n a => mappedIn (pickAmong (Config.freePick s.draws n) s.params.pixmem r.maps) a
    value := fun n a => pickAmong (Config.freePick (s.draws + 1) n) (s.pixel a) (earlierValues r a)
    keeps := fun n a => (r.writes.any fun w => w.addr = a) && Config.freeChoice (s.draws + 1) n }

/-- The effect of a command during which the host or the platform touched pixel memory (R332): the accesses of MODULATE
and DECODE are those of `racedAccess`; the other commands make none. The draws the accesses used are spent. -/
def completeRaced (r : Running) (s : State) : Out :=
  let spent : State := { s with draws := s.draws + 2 }
  match r.instr with
  | .modulate p w h c f => gate true spent fun t => modulateBy (racedAccess r s) p w h c f t
  | .decode n => gate true spent fun t => decodeBy (racedAccess r s) n t
  | .init w h p => exec (.init w h p) spent
  | .resize w h p => exec (.resize w h p) spent
  | .reset => exec .reset spent

/-- Neither the host nor the platform touched pixel memory since the command began. -/
def Running.quiet (r : Running) : Bool := r.writes.isEmpty && r.maps.isEmpty

/-- The command in progress completes: left alone it does exactly what the command does in one step (R10); with none in
progress there is nothing to do. -/
def finish (s : State) : Out :=
  match s.running with
  | none => .next s
  | some r =>
    if r.quiet then exec r.instr { s with running := none } else completeRaced r { s with running := none }

/-! ### Pixel memory while a command executes -/

/-- The value a DECODE in progress writes, or has written, to cell `a` (R332). -/
def pendingPixel (s : State) (a : Nat) : Option Pixel :=
  match s.running with
  | some ⟨.decode n, _, _⟩ =>
    if s.outStart ≤ a ∧ a < s.outStart + s.outCells then some ((decodeStages n s).cell (a - s.outStart)) else none
  | _ => none

/-- What the host reads from pixel cell `a`: the cell; in the output buffer of a DECODE in progress the old or the new
value (R332); at an address the platform does not map a free value (log 12). -/
def pixelSeen (s : State) (a : Nat) : Pixel :=
  if !s.mapped a then (Config.freeWord s.draws).setWidth 24
  else match pendingPixel s a with
    | none => s.pixel a
    | some v => if Config.freeChoice s.draws a then v else s.pixel a

/-- The host reads a pixel cell. -/
def pixRead (a : Nat) (s : State) : State := answer (.pixel (pixelSeen s a)) s

/-- The command in progress, if any, remembers the value pixel cell `a` had (R332). -/
def noteWrite (a : Nat) (s : State) : Option Running :=
  s.running.map fun r => { r with writes := ⟨a, s.pixel a⟩ :: r.writes }

/-- The host writes a pixel cell; an address the platform does not map has no cell to write (log 12). -/
def pixWrite (a : Nat) (v : Pixel) (s : State) : State :=
  if s.mapped a then { s.setPixel a v with running := noteWrite a s } else s

/-- The platform changes the map of pixel addresses (R325, U29): cells keep what they hold (log 13). -/
def remap (m : List PixRegion) (s : State) : State :=
  { s with
    params := { s.params with pixmem := m }
    running := s.running.map fun r => { r with maps := s.params.pixmem :: r.maps } }

/-! ### Power-on reset -/

/-- Address `a` is in one of the maps. -/
def mappedInSome (maps : List (List PixRegion)) (a : Nat) : Bool := maps.any fun m => mappedIn m a

/-- Pixel memory after power-on reset: unchanged, but that of the cells a DECODE in progress was writing each holds its
old or its new value (R322; log 11). Where the platform changed the map during the DECODE, on which the spec is silent, the
DECODE may have written every cell that the present or an earlier map since it began has (DESIGN CHOICE, log 13). -/
def pixAfterPowerOn (s : State) : List (Nat × Pixel) :=
  match s.running with
  | some ⟨.decode n, _, maps⟩ =>
    writeOutput s
      (fun i => mappedInSome (s.params.pixmem :: maps) (s.outStart + i) && Config.freeChoice s.draws i)
      (decodeStages n s).cell
  | _ => s.pix

/-- Power-on reset (R320, R322): the block is as `State.reset` says; pixel memory, the parameters and the host's
transactions are not the block's and stay. -/
def powerOn (s : State) : State :=
  { State.reset with
    pix := pixAfterPowerOn s
    pixEpoch := s.pixEpoch
    params := s.params
    events := s.events
    reply := s.reply
    draws := s.draws + 1 }

/-! ### One transaction -/

/-- The effect of one transaction (R12). -/
def perform (e : Event) (s : State) : Out :=
  match e with
  | .command p => runPacket p s
  | .start p => startPacket p s
  | .finish => finish s
  | .regRead i => .next (regRead i s)
  | .regWrite i v => .next (regWrite i v s)
  | .anaRead k => .next (anaRead k s)
  | .rawRead k => .next (rawRead k s)
  | .anaWrite k v => .next (anaWrite k v s)
  | .pixRead a => .next (pixRead a s)
  | .pixWrite a v => .next (pixWrite a v s)
  | .remap m => .next (remap m s)
  | .powerOn => .next (powerOn s)

/-- One step of the machine: the oldest transaction, in issue order (R75). With none to come a command in progress
completes, and an idle block stays as it is (R321, R343; log 18). -/
def takeTransaction (s : State) : Out :=
  match s.events with
  | [] => finish s
  | e :: rest => perform e { s with events := rest }

/-- The packet made the oldest transaction of an idle block, so that the next step takes it (log 6). -/
def offerPacket (p : Packet) (s : State) : State :=
  { s with running := none, events := .command p :: s.events }

end Sys2Proof.Machine
end

