-- ==== Sys2Proof/Machine/Step.lean ====
section
/-! DEFINITION. One step of the machine, and how a packet is put where the step takes its next command. -/

namespace Sys2Proof.Machine

/-- One step: the machine takes the host's oldest transaction. -/
def step (s : State) : Host.Outcome State Fault Refusal := takeTransaction s

/-- The machine about to take the command whose bits are the low `nbits` bits of `w` (log 6). -/
def State.withFetchWord (s : State) (nbits w : Nat) : State := offerPacket (packetOfBits nbits w) s

end Sys2Proof.Machine
end

