-- ==== Sys2Proof/Safety.lean ====
section
/-! DEFINITION. What a state of the machine must be, in the terms the claims use: every field in the range the spec gives
it, both buffers and pixel memory in canonical form, the fault bits consistent, a command in progress one that passed
its checks. -/

namespace Sys2Proof.Machine

/-- The block is idle and no fault is recorded: the next command passes the first two checks of R295. -/
abbrev Idle (s : State) : Prop := s.fault = false ∧ s.running = none

/-- The block is idle, no fault is recorded and a Device exists (R120). -/
abbrev DeviceReady (s : State) : Prop := s.fault = false ∧ s.running = none ∧ s.ready = true

/-- A width and a height that INIT, RESIZE and MODULATE accept (R293, R294). -/
abbrev GoodDims (s : State) (w h : Nat) : Prop := (1 ≤ w ∧ w ≤ s.params.maxDim) ∧ 1 ≤ h ∧ h ≤ s.params.maxDim

/-- Every source cell a MODULATE reads is mapped: cell `P + sy·w + sx` for the `sx`, `sy` of every active sample (R148,
R298). -/
abbrev SourceMapped (s : State) (image w h : Nat) (f : Bool) : Prop :=
  ∀ x < 752, ∀ y < 240, s.mapped (image + min (h - 1) ((2 * y + f.toNat) * h / 480) * w + x * w / 752) = true

/-- Every cell of the bound output buffer is mapped (R298). -/
abbrev OutputMapped (s : State) : Prop :=
  ∀ i < s.outw * s.outh, s.mapped (s.outBase.toNat + i) = true

/-- The raw-input buffer read as integers. -/
def rawSignal (s : State) (k : Nat) : Int := (s.raw.get s.draws k).toInt

/-- The five calibration values are in their ranges (R26 to R29). -/
abbrev Calibration.legal (c : Calibration) : Prop :=
  (-100 ≤ c.brightness ∧ c.brightness ≤ 100) ∧ (0 ≤ c.contrast ∧ c.contrast ≤ 255)
    ∧ (0 ≤ c.saturation ∧ c.saturation ≤ 255) ∧ (0 ≤ c.blackPoint ∧ c.blackPoint ≤ 50)
    ∧ (60 ≤ c.whitePoint ∧ c.whitePoint ≤ 127)

/-- The command in progress, if any, decoded from a packet and passed its checks (R120, R295), and no fault is recorded
(a fault ends the command, R296). -/
abbrev runningLegal (s : State) : Prop :=
  ∀ r, s.running = some r →
    r.instr.wellFormed = true ∧ s.fault = false ∧ (s.ready = true ∨ needsReady r.instr = false)
      ∧ operandsOk s r.instr = true

/-- The state invariant. -/
structure Inv (s : State) : Prop where
  /-- canonical form of the analog buffer (R21) -/
  analog_wf : s.analog.wf
  /-- canonical form of the raw-input buffer (R21) -/
  raw_wf : s.raw.wf
  /-- the raw-input buffer never stores −128 (R184) -/
  raw_range : ∀ c ∈ s.raw.cells, -127 ≤ c.2.toInt
  /-- range of `hsync` (R24) -/
  hsync_lt : s.hsync < 910
  /-- range of `vsync` (R25) -/
  vsync_lt : s.vsync < 262
  /-- ranges of the calibration values (R26 to R29) -/
  cal_legal : s.cal.legal
  /-- MAX_DIM is at least 1 (R8) -/
  maxDim_pos : 1 ≤ s.params.maxDim
  /-- range of `outw` (R31) -/
  outw_range : 1 ≤ s.outw ∧ s.outw ≤ s.params.maxDim
  /-- range of `outh` (R31) -/
  outh_range : 1 ≤ s.outh ∧ s.outh ≤ s.params.maxDim
  /-- canonical form of pixel memory -/
  pix_wf : Memory.wf s.pix
  /-- FCODE is 0 without a fault and one of 1..7 with one (R30, R291) -/
  fault_code : s.fault = true ↔ s.fcode ≠ 0
  /-- codes 8..15 are never recorded (R291) -/
  fcode_le : s.fcode.toNat ≤ 7
  /-- the analog buffer of a ready, unfaulted Device holds defined samples (R38, R298) -/
  analog_defined : s.ready = true → s.fault = false → s.analog.fill = .zero
  /-- the command in progress passed its checks -/
  running_legal : runningLegal s

end Sys2Proof.Machine
end

