-- ==== Sys2Proof/Certificates/Slice0/Obligations.lean ====
section
/-! DEFINITION. The statements for the provers: what the spec's numbered rules say of the commands, the ports, the faults,
the encoding and the whole machine. Each docstring names the rules. -/

open Sys2Proof Sys2Proof.Machine

/-! ### Encoding -/

/-- Decode and encode agree: no bit of a well-formed command is lost (R91, R92, R93, R97). -/
def Obligations.DecodeEncodeRoundTrip : Prop :=
  ∀ i : Instr, i.wellFormed = true → decode (encode i) = .command i

/-- R93, row by row: a packet selects a row's command iff `W0 & mask == match`, with its operands from W1, W2, W3 and
W0[8], W0[9]; no W0 matches two rows. -/
def Obligations.OpcodeMapSelectsCommand : Prop :=
  (∀ p : Packet,
    (p.w0 &&& 0xFFFFFFFF = 0x00000001 ↔ decode p = .command (.init p.w1.toNat p.w2.toNat p.w3.toNat))
    ∧ (p.w0 &&& 0xFFFFFFFF = 0x00000002 ↔ decode p = .command (.resize p.w1.toNat p.w2.toNat p.w3.toNat))
    ∧ (p.w0 &&& 0xFFFFFFFF = 0x00000003 ↔ decode p = .command .reset)
    ∧ (p.w0 &&& 0xFFFFFCFF = 0x00000004
        ↔ decode p = .command
            (.modulate p.w3.toNat p.w1.toNat p.w2.toNat (p.w0.getLsbD 8) (p.w0.getLsbD 9)))
    ∧ (p.w0 &&& 0xFFFFFFFF = 0x00000005 ↔ decode p = .command (.decode p.w1.toNat)))
  ∧ ∀ w0 : Word,
    (([(0x00000001, 0xFFFFFFFF), (0x00000002, 0xFFFFFFFF), (0x00000003, 0xFFFFFFFF), (0x00000004, 0xFFFFFCFF),
        (0x00000005, 0xFFFFFFFF)] : List (Word × Word)).filter fun r => w0 &&& r.2 = r.1).length ≤ 1

/-- R94: the words a command ignores may hold any value. -/
def Obligations.IgnoredWordsHaveNoEffect : Prop :=
  ∀ w0 w1 w2 w3 v1 v2 v3 : Word,
    (w0.toNat = 3 → decode ⟨w0, w1, w2, w3⟩ = decode ⟨w0, v1, v2, v3⟩)
    ∧ (w0.toNat = 5 → decode ⟨w0, w1, w2, w3⟩ = decode ⟨w0, w1, v2, v3⟩)

/-- A few packets written out bit by bit from R91 and R93 decode to the command they stand for (95_test_vectors.md V1, V3,
V4, V8, V13; the example of R98). -/
def Obligations.WrittenOutPacketsDecode : Prop :=
  decode ⟨0x00000001, 4, 3, 100⟩ = .command (.init 4 3 100)
  ∧ decode ⟨0x00000003, 0xDEAD, 0xBEEF, 7⟩ = .command .reset
  ∧ decode ⟨0x00000104, 2, 2, 0x2000⟩ = .command (.modulate 0x2000 2 2 true false)
  ∧ decode ⟨0x00000005, 64, 9, 9⟩ = .command (.decode 64)
  ∧ decode ⟨0x80000001, 4, 3, 100⟩ = .illegal .reservedBits

/-! ### Packets and steps -/

/-- A step on a command packet is the meaning of the decoded command, on the machine past that packet (R23, R75, R120):
in every state, faulted and busy ones too. -/
def Obligations.StepRunsDecodedCommand : Prop :=
  ∀ (s : State) (p : Packet) (rest : List Event) (i : Instr),
    s.events = .command p :: rest → decode p = .command i → step s = exec i { s with events := rest }

/-- R292 and R95: on an idle, unfaulted block a packet with an opcode outside 1..5, a reserved bit set, or C or F set on
a command without such an operand records F_ILLEGAL_CMD, whether or not the Device is ready, and changes no state other
than `fault` and `fcode`; every other packet is one of the five commands. -/
def Obligations.IllegalPacketRecordsFault : Prop :=
  ∀ (s : State) (p : Packet) (rest : List Event),
    let op := p.w0.toNat % 256
    let c := p.w0.toNat / 256 % 2
    let f := p.w0.toNat / 512 % 2
    let bad := op = 0 ∨ 6 ≤ op ∨ p.w0.toNat / 1024 ≠ 0 ∨ ((c = 1 ∨ f = 1) ∧ op ≠ 4)
    (Idle s → s.events = .command p :: rest → bad →
      step s = .next { s with events := rest, fault := true, fcode := 1 })
    ∧ (¬ bad → ∃ i, decode p = .command i)

/-- R297: while `fault` = 1 every packet, register write and `AnaWrite` is ignored; reads still work and answer the state
as the fault left it; nothing but power-on reset clears a fault. -/
def Obligations.FaultedBlockIgnoresWrites : Prop :=
  ∀ (s : State), s.fault = true →
    (∀ rest p, s.events = .command p :: rest ∨ s.events = .start p :: rest → step s = .next { s with events := rest })
    ∧ (∀ rest i v, s.events = .regWrite i v :: rest → step s = .next { s with events := rest })
    ∧ (∀ rest k v, s.events = .anaWrite k v :: rest → step s = .next { s with events := rest })
    ∧ (∀ rest i, s.events = .regRead i :: rest →
        step s = .next { s with events := rest, reply := some (.word (regValue s i)), draws := s.draws + 1 })
    ∧ (∀ rest k, s.events = .anaRead k :: rest →
        step s = .next { s with events := rest, reply := some (.sample (anaValue s k)), draws := s.draws + 1 })
    ∧ (∀ rest k, s.events = .rawRead k :: rest →
        step s = .next { s with events := rest, reply := some (.sample (rawValue s k)), draws := s.draws + 1 })
    ∧ (s.running = none → s.ready = true → s.fcode ≠ 5 →
        (∀ i < 12, regValue s i = registerField s i)
        ∧ ∀ k < 238420, anaValue s k = s.analog.get s.draws k ∧ rawValue s k = s.raw.get s.draws k)
    ∧ ∀ t, step s = .next t → t.fault = false → ∃ rest, s.events = .powerOn :: rest

/-- Every step of the machine answers a next state: every transaction in every state has a defined result
(92_eei_decisions.md D25; R302, R303). -/
def Obligations.StepAlwaysAnswersNext : Prop :=
  ∀ s : State, ∃ t, step s = .next t

/-! ### INIT, RESIZE, RESET -/

/-- R121: INIT on an idle, unfaulted block, ready or not (R122): with good dimensions every effect of the rule, every analog
cell reading 0; with a bad dimension F_BAD_GEOMETRY before any state changes. That the raw buffer is unspecified afterwards,
on a block that was ready too, is the model's reading (log 16: R38, R64 and R335 over the sentence of R121 that INIT does not
write it). Nothing else changes. -/
def Obligations.InitCreatesDevice : Prop :=
  ∀ (s : State) (w h p : Nat), Idle s →
    (GoodDims s w h →
      ∃ t, exec (.init w h p) s = .next t
        ∧ t = { s with
            outw := w, outh := h, outBase := BitVec.ofNat 32 p
            analog := t.analog, raw := ⟨.unspecified, []⟩
            hsync := 0, vsync := 0
            cal := { brightness := 0, contrast := 128, saturation := 128, blackPoint := 7, whitePoint := 100 }
            rng := 194, ready := true }
        ∧ (∀ d, ∀ k < 238420, t.analog.get d k = 0) ∧ t.analog.wf)
    ∧ (¬ GoodDims s w h → exec (.init w h p) s = .next { s with fault := true, fcode := 3 })

/-- R123: RESIZE on an idle, unfaulted, ready block rebinds geometry and output buffer and changes nothing else; on a block
that is not ready it records F_NOT_READY. -/
def Obligations.ResizeRebindsOnly : Prop :=
  ∀ (s : State) (w h p : Nat), Idle s →
    (s.ready = true → GoodDims s w h →
      exec (.resize w h p) s = .next { s with outw := w, outh := h, outBase := BitVec.ofNat 32 p })
    ∧ (s.ready = true → ¬ GoodDims s w h → exec (.resize w h p) s = .next { s with fault := true, fcode := 3 })
    ∧ (s.ready = false → exec (.resize w h p) s = .next { s with fault := true, fcode := 2 })

/-- R125: RESIZE issued twice with the same operands leaves the state of issuing it once, and a DECODE that follows, given a
mapped output buffer, completes without a fault and writes the bound geometry: cell `p + oy·w + ox` gets the picture's pixel
for every `ox < w`, `oy < h`. -/
def Obligations.ResizeIdempotentThenDecodes : Prop :=
  ∀ (s : State) (w h p : Nat), DeviceReady s → GoodDims s w h → p < 2 ^ 32 →
    ∃ t, exec (.resize w h p) s = .next t ∧ exec (.resize w h p) t = .next t ∧ t.outw = w ∧ t.outh = h
      ∧ ((∀ i < w * h, s.mapped (p + i) = true) →
          ∀ noise, ∃ u, exec (.decode noise) t = .next u ∧ u.fault = false ∧ u.outw = w ∧ u.outh = h
            ∧ let track := runScan (rawSignal u) s.hsync s.vsync
              ∀ oy < h, ∀ ox < w,
                u.pixel (p + oy * w + ox)
                  = packPixel (lineColumn (rawSignal u) s.cal s.params.bloomEn
                      (lineStart s.hsync s.vsync track (21 + oy * 240 / h)) (ox * 736 / w)))

/-- R124: RESET on an idle, unfaulted, ready block restores the five calibration values and changes nothing else; on a
block that is not ready it records F_NOT_READY. -/
def Obligations.ResetRestoresCalibrationOnly : Prop :=
  ∀ s : State, Idle s →
    (s.ready = true → exec .reset s = .next
      { s with cal := { brightness := 0, contrast := 128, saturation := 128, blackPoint := 7, whitePoint := 100 } })
    ∧ (s.ready = false → exec .reset s = .next { s with fault := true, fcode := 2 })

/-- R293: INIT and RESIZE with a dimension 0 or above MAX_DIM record F_BAD_GEOMETRY and write nothing else. -/
def Obligations.BadGeometryFault : Prop :=
  ∀ (s : State) (w h p : Nat), Idle s →
    (w = 0 ∨ s.params.maxDim < w ∨ h = 0 ∨ s.params.maxDim < h) →
    exec (.init w h p) s = .next { s with fault := true, fcode := 3 }
    ∧ (s.ready = true → exec (.resize w h p) s = .next { s with fault := true, fcode := 3 })

/-- R294: MODULATE with an image dimension 0 or above MAX_DIM records F_BAD_IMAGE before any analog cell is written. -/
def Obligations.BadImageFault : Prop :=
  ∀ (s : State) (p w h : Nat) (c f : Bool), DeviceReady s →
    (w = 0 ∨ s.params.maxDim < w ∨ h = 0 ∨ s.params.maxDim < h) →
    exec (.modulate p w h c f) s = .next { s with fault := true, fcode := 4 }

/-- R299: before INIT the commands but INIT, a write to a calibration register and an `AnaWrite` record F_NOT_READY and
change nothing else; reads never fault, they answer free values (a raw-input read, while that buffer is unspecified) and
change nothing but the answer and the draw. -/
def Obligations.NotReadyFault : Prop :=
  ∀ (s : State) (rest : List Event), Idle s → s.ready = false →
    (∀ i : Instr, (∀ w h p, i ≠ .init w h p) → exec i s = .next { s with fault := true, fcode := 2 })
    ∧ (∀ i v, 3 ≤ i → i ≤ 7 → s.events = .regWrite i v :: rest →
        step s = .next { s with events := rest, fault := true, fcode := 2 })
    ∧ (∀ k v, s.events = .anaWrite k v :: rest →
        step s = .next { s with events := rest, fault := true, fcode := 2 })
    ∧ (∀ i, 1 ≤ i → i ≤ 11 → s.events = .regRead i :: rest →
        step s = .next
          { s with events := rest, reply := some (.word (Config.freeWord s.draws)), draws := s.draws + 1 })
    ∧ (∀ k, s.events = .anaRead k :: rest →
        step s = .next
          { s with events := rest, reply := some (.sample (Config.freeSample s.draws k)), draws := s.draws + 1 })
    ∧ (∀ k, s.raw.fill = .unspecified → s.raw.cells = [] → s.events = .rawRead k :: rest →
        step s = .next
          { s with events := rest, reply := some (.sample (Config.freeSample s.draws k)), draws := s.draws + 1 })

/-! ### MODULATE -/

/-- R140: MODULATE on an idle, unfaulted, ready block with good dimensions and a mapped source frame completes without a
fault, writes the analog buffer whole (every cell defined, in canonical form) and changes nothing else. -/
def Obligations.ModulateWritesAnalogOnly : Prop :=
  ∀ (s : State) (p w h : Nat) (c f : Bool), DeviceReady s → GoodDims s w h → SourceMapped s p w h f →
    ∃ t, exec (.modulate p w h c f) s = .next t ∧ t = { s with analog := t.analog }
      ∧ t.analog.fill = .zero ∧ t.analog.wf

/-- R146 and R147: after a MODULATE that completes every cell outside the picture holds its template value: −40 in the
pulses of the vertical interval and in every horizontal sync, the burst `−20·COS4[(a + 2F) mod 4]` on the normal lines when
colour is enabled, 0 elsewhere. -/
def Obligations.ModulateTemplate : Prop :=
  ∀ (s : State) (p w h : Nat) (c f : Bool), DeviceReady s → GoodDims s w h → SourceMapped s p w h f →
    ∃ t, exec (.modulate p w h c f) s = .next t
      ∧ ∀ d, ∀ n < 262, ∀ o < 910, ¬ (21 ≤ n ∧ n ≤ 260 ∧ 156 ≤ o ∧ o < 908) →
        (t.analog.get d (910 * n + o)).toInt
          = if n ≤ 2 ∨ (6 ≤ n ∧ n ≤ 8) then
              (if (21 ≤ o ∧ o < 54) ∨ (476 ≤ o ∧ o < 509) then -40 else 0)
            else if n ≤ 5 then
              (if (21 ≤ o ∧ o < 409) ∨ (476 ≤ o ∧ o < 864) then -40 else 0)
            else if 21 ≤ o ∧ o < 88 then -40
            else if 97 ≤ o ∧ o < 137 ∧ c = true then
              (if (910 * n + o + 2 * f.toNat) % 4 = 0 then -20
               else if (910 * n + o + 2 * f.toNat) % 4 = 2 then 20 else 0)
            else 0

/-- R148, R150, R151 and R152: after a MODULATE that completes, active sample `x` of picture row `y` is the composite of
the source pixel of those coordinates at the carrier phase of its cell. -/
def Obligations.ModulatePicture : Prop :=
  ∀ (s : State) (p w h : Nat) (c f : Bool), DeviceReady s → GoodDims s w h → SourceMapped s p w h f →
    ∃ t, exec (.modulate p w h c f) s = .next t
      ∧ ∀ d, ∀ y < 240, ∀ x < 752,
        let sx := x * w / 752
        let sy := min (h - 1) ((2 * y + f.toNat) * h / 480)
        let v := (s.pixel (p + sy * w + sx)).toNat
        let r : Int := (v / 65536 : Nat)
        let g : Int := (v / 256 % 256 : Nat)
        let b : Int := (v % 256 : Nat)
        let y10 : Int := (19595 * r + 38470 * g + 7471 * b) / 16384
        let i10 : Int := if c then (39053 * r - 17996 * g - 21057 * b) / 16384 else 0
        let q10 : Int := if c then (13861 * r - 34256 * g + 20395 * b) / 16384 else 0
        let a := 910 * (21 + y) + 156 + x
        let composite : Int :=
          match (a + 2 * f.toNat) % 4 with
          | 0 => y10 + q10
          | 1 => y10 + i10
          | 2 => y10 - q10
          | _ => y10 - i10
        (t.analog.get d a).toInt = max (-20) (min 127 (7 + (composite * 5975 + 32768) / 65536))

/-- R298 for MODULATE: one unmapped source cell records F_MEM, leaves every cell of `analog` unspecified (a free value at
each read) and changes nothing else. -/
def Obligations.ModulateUnmappedFault : Prop :=
  ∀ (s : State) (p w h : Nat) (c f : Bool), DeviceReady s → GoodDims s w h → ¬ SourceMapped s p w h f →
    exec (.modulate p w h c f) s
      = .next { s with analog := ⟨.unspecified, []⟩, fault := true, fcode := 6 }

/-- R155: the ranges of the modulator's intermediate values and of every sample it writes. -/
def Obligations.ModulateSampleRanges : Prop :=
  (∀ (p : Pixel) (c : Bool) (th : Nat),
    let k := lumaChroma p c
    let v := k.y + k.q * cos4 th + k.i * sin4 th
    (0 ≤ k.y ∧ k.y ≤ 1020) ∧ (-608 ≤ k.i ∧ k.i ≤ 607) ∧ (-534 ≤ k.q ∧ k.q ≤ 533) ∧ (-608 ≤ v ∧ v ≤ 1627)
      ∧ (-48 ≤ 7 + shr (v * 5975 + 32768) 16 ∧ 7 + shr (v * 5975 + 32768) 16 ≤ 155))
  ∧ ∀ (s t : State) (p w h : Nat) (c f : Bool), DeviceReady s → GoodDims s w h → SourceMapped s p w h f →
    exec (.modulate p w h c f) s = .next t →
    ∀ d, ∀ k < 238420, (t.analog.get d k).toInt = -40 ∨ (-20 ≤ (t.analog.get d k).toInt ∧ (t.analog.get d k).toInt ≤ 127)

/-- R154: the field parity moves no sync pulse: the low samples of an even and of an odd field of the same frame lie in the
same cells. -/
def Obligations.ParityMovesNoSync : Prop :=
  ∀ (s t u : State) (p w h : Nat) (c : Bool), DeviceReady s → GoodDims s w h →
    SourceMapped s p w h false → SourceMapped s p w h true →
    exec (.modulate p w h c false) s = .next t → exec (.modulate p w h c true) s = .next u →
    ∀ d, ∀ k < 238420, (t.analog.get d k).toInt < -20 ↔ (u.analog.get d k).toInt < -20

/-- R149: the closed form of the source column is the integer accumulator that adds `w` per column and carries at 752. -/
def Obligations.SourceColumnIsAccumulator : Prop :=
  ∀ w x : Nat,
    Nat.rec (motive := fun _ => Nat × Nat) (0, 0) (fun _ a => (a.1 + (a.2 + w) / 752, (a.2 + w) % 752)) x
      = (sourceColumn w x, x * w % 752)

/-! ### DECODE: the command -/

/-- R180, R181, R255: DECODE on an idle, unfaulted, ready block whose output cells are mapped completes without a fault,
whatever the signal. The tracker and the demodulator read the raw buffer it wrote (R62): the new counters and every output
pixel are functions of that buffer, the old counters and the calibration. Analog buffer, calibration, geometry and every
pixel cell outside the output buffer are unchanged. (`draws` is the model's counter of free values, log 2.) -/
def Obligations.DecodeWritesFullFrame : Prop :=
  ∀ (s : State) (noise : Nat), DeviceReady s → OutputMapped s →
    ∃ t, exec (.decode noise) s = .next t
      ∧ t = { s with raw := t.raw, rng := t.rng, hsync := t.hsync, vsync := t.vsync, pix := t.pix, draws := s.draws + 1 }
      ∧ t.raw.fill = .zero ∧ t.raw.wf
      ∧ (let track := runScan (rawSignal t) s.hsync s.vsync
         t.hsync = newHsync s.hsync track ∧ t.vsync = newVsync s.vsync track
         ∧ ∀ oy < s.outh, ∀ ox < s.outw,
            t.pixel (s.outBase.toNat + oy * s.outw + ox)
              = packPixel (lineColumn (rawSignal t) s.cal s.params.bloomEn
                  (lineStart s.hsync s.vsync track (21 + oy * 240 / s.outh)) (ox * 736 / s.outw)))
      ∧ ∀ a, ¬ (s.outBase.toNat ≤ a ∧ a < s.outBase.toNat + s.outw * s.outh) → t.pixel a = s.pixel a

/-- R298 for DECODE: with an unmapped output cell F_MEM is recorded; `raw`, `rng`, `hsync` and `vsync` are those the stages
computed; each mapped cell of the output buffer holds its old value or the value DECODE would have written; every other
cell, and everything else, is unchanged. -/
def Obligations.DecodeUnmappedFault : Prop :=
  ∀ (s : State) (noise : Nat), DeviceReady s → ¬ OutputMapped s →
    ∃ t, exec (.decode noise) s = .next t
      ∧ t = { s with
          raw := SampleBuf.ofFn (decodeStages noise s).raw, rng := (decodeStages noise s).rng
          hsync := (decodeStages noise s).hsync, vsync := (decodeStages noise s).vsync
          pix := t.pix, draws := s.draws + 1, fault := true, fcode := 6 }
      ∧ (∀ i < s.outw * s.outh,
          t.pixel (s.outBase.toNat + i) = s.pixel (s.outBase.toNat + i)
          ∨ (s.mapped (s.outBase.toNat + i) = true
              ∧ t.pixel (s.outBase.toNat + i) = (decodeStages noise s).cell i))
      ∧ ∀ a, ¬ (s.outBase.toNat ≤ a ∧ a < s.outBase.toNat + s.outw * s.outh) → t.pixel a = s.pixel a

/-- R184: the noise stage, cell by cell, and the generator after N = 238420 steps, whatever the noise level and whether or
not the output buffer is mapped. -/
def Obligations.DecodeNoiseStage : Prop :=
  ∀ (s : State) (noise : Nat), DeviceReady s →
    ∃ t, exec (.decode noise) s = .next t
      ∧ t.rng = (fun r : Word => 214019 * r + 140327895)^[238420] s.rng
      ∧ ∀ d, ∀ k < 238420,
        let r : Word := (fun r : Word => 214019 * r + 140327895)^[k + 1] s.rng
        let r8 : Int := (r.toNat / 65536 % 256 : Nat)
        (t.raw.get d k).toInt
          = max (-127) (min 127 ((s.analog.get s.draws k).toInt + (r8 - 127) * (noise : Int) / 256))

/-- R182: the output cells, `raw`, `rng`, `hsync` and `vsync` after a DECODE do not depend on anything but the Device state,
the noise level and BLOOM_EN: two ready blocks with equal Device fields and a defined analog buffer agree, whatever else
differs between them (pixel memory, the map, where the output buffer lies, the old raw buffer). -/
def Obligations.DecodeFunctionOfDevice : Prop :=
  ∀ (s u : State) (noise : Nat), DeviceReady s → DeviceReady u → OutputMapped s → OutputMapped u →
    s.analog = u.analog → s.analog.fill = .zero → s.hsync = u.hsync → s.vsync = u.vsync → s.cal = u.cal →
    s.outw = u.outw → s.outh = u.outh → s.rng = u.rng → s.params.bloomEn = u.params.bloomEn →
    ∃ s' u', exec (.decode noise) s = .next s' ∧ exec (.decode noise) u = .next u'
      ∧ s'.raw = u'.raw ∧ s'.rng = u'.rng ∧ s'.hsync = u'.hsync ∧ s'.vsync = u'.vsync
      ∧ ∀ i < s.outw * s.outh, s'.pixel (s.outBase.toNat + i) = u'.pixel (u.outBase.toNat + i)

/-- R333: with another calibration a DECODE differs in the cells of the output buffer and, of course, in the calibration
itself, and in nothing else; a MODULATE differs in the calibration alone. -/
def Obligations.CalibrationTouchesPixelsOnly : Prop :=
  ∀ (s : State) (c : Calibration), DeviceReady s →
    (∀ noise, ∃ t u, exec (.decode noise) s = .next t ∧ exec (.decode noise) { s with cal := c } = .next u
      ∧ u = { t with cal := c, pix := u.pix }
      ∧ ∀ a, ¬ (s.outBase.toNat ≤ a ∧ a < s.outBase.toNat + s.outw * s.outh) → u.pixel a = t.pixel a)
    ∧ ∀ p w h col f, ∃ t, exec (.modulate p w h col f) s = .next t
      ∧ exec (.modulate p w h col f) { s with cal := c } = .next { t with cal := c }

/-! ### DECODE: the sync tracker -/

/-- R211: whatever the signal and the counters, the scan ends with all 270 lines resolved within the bound 270·918 + 23 that
the model's loop has (log 20), and consecutive resolved edges never lie further apart than 918 samples. -/
def Obligations.ScanResolvesEveryLine : Prop :=
  ∀ (raw : Nat → Int) (hs0 vs0 : Nat),
    (runScan raw hs0 vs0).m = 270 ∧ (runScan raw hs0 vs0).edges.length = 270
      ∧ ∀ m < 269, (runScan raw hs0 vs0).edges.getD (m + 1) 0 - (runScan raw hs0 vs0).edges.getD m 0 ≤ 918

/-- R217: a buffer with no low sample: no edge is qualified, the tracker stays in SEARCHING_H, every line is resolved at
nominal spacing, both counters keep their values and the line table is the fixed grid offset by them. -/
def Obligations.NoSyncFallsBackToNominal : Prop :=
  ∀ (raw : Nat → Int) (hs0 vs0 : Nat), hs0 < 910 → vs0 < 262 → (∀ k < 238420, -20 ≤ raw k) →
    (runScan raw hs0 vs0).st = .searchingH ∧ (runScan raw hs0 vs0).lastfall = none
      ∧ (∀ m < 270, (runScan raw hs0 vs0).edges.getD m 0 = 21 + 910 * m)
      ∧ newHsync hs0 (runScan raw hs0 vs0) = hs0 ∧ newVsync vs0 (runScan raw hs0 vs0) = vs0
      ∧ ∀ n < 262, lineStart hs0 vs0 (runScan raw hs0 vs0) n = ((vs0 + n) % 262 * 910 + hs0) % 238420

/-- R216: a signal whose low samples are those of the template MODULATE writes, scanned from counters 0: the tracker ends in
LOCKED_FIELD with the boundary on scan line 11, every edge lies at its nominal position, both counters stay 0, and field
line `n` starts at cell `910·n`. -/
def Obligations.CleanFieldLocks : Prop :=
  ∀ raw : Nat → Int,
    (∀ k < 238420, raw k < -20 ↔ templateSample (k / 910) (k % 910) false false = -40) →
    (runScan raw 0 0).st = .lockedField ∧ (runScan raw 0 0).vfound = true ∧ (runScan raw 0 0).vline = 11
      ∧ (∀ m < 270, (runScan raw 0 0).edges.getD m 0 = 21 + 910 * m)
      ∧ newHsync 0 (runScan raw 0 0) = 0 ∧ newVsync 0 (runScan raw 0 0) = 0
      ∧ ∀ n < 262, lineStart 0 0 (runScan raw 0 0) n = 910 * n

/-- R212 with R204, R205, R209, R210: the tracker changes its state in the listed cases and in no other: a falling edge, a
rising edge, a timeout. A sample of the scan is sliced and then tested for the timeout; it reaches an edge handler only where
it completes eight samples against the debounced level, and otherwise changes nothing but the run counter. -/
def Obligations.TrackerTransitions : Prop :=
  (∀ (pos : Int) (t : Tracker),
    (t.st = .searchingH → ((fall pos t).st = .lockedH ∧ 2 ≤ (fall pos t).good)
      ∨ ((fall pos t).st = .searchingH ∧ (fall pos t).good < 2))
    ∧ (t.st = .lockedH → ((fall pos t).st = .searchingV ∧ 3 ≤ (fall pos t).shortc)
      ∨ ((fall pos t).st = .lockedH ∧ (fall pos t).shortc < 3))
    ∧ (t.st = .searchingV → ((fall pos t).st = .lockedH ∧ (fall pos t).shortc = 0)
      ∨ ((fall pos t).st = .searchingV ∧ 0 < (fall pos t).shortc))
    ∧ (t.st = .lockedField → (fall pos t).st = .lockedField))
  ∧ (∀ (pos : Int) (t : Tracker),
    ((rise pos t).st = .lockedField ∧ (rise pos t).vline = (t.m : Int) - 1 ∧ t.st = .searchingV
        ∧ ∃ e, t.lastfall = some e ∧ 200 ≤ pos - e)
    ∨ (rise pos t = t ∧ ¬ (t.st = .searchingV ∧ ∃ e, t.lastfall = some e ∧ 200 ≤ pos - e)))
  ∧ (∀ (j : Nat) (t : Tracker),
    ((timeout j t).st = .searchingH ∧ t.st ≠ .searchingH ∧ 4 ≤ (timeout j t).miss)
    ∨ ((timeout j t).st = t.st
        ∧ (t.st ≠ .searchingH → t.m < 270 → t.hnext + 15 ≤ (j : Int) → (timeout j t).miss < 4)))
  ∧ ∀ (x : Int) (j : Nat) (t : Tracker),
    let low : Bool := decide (x < -20)
    let run := if low = t.lvl then 0 else t.run + 1
    let u := { t with lvl := low, run := 0 }
    scanStep x j t = timeout j (slice x j t)
      ∧ (run ≠ 8 → slice x j t = { t with run := run })
      ∧ (run = 8 → slice x j t = if low = true then fall ((j : Int) - 7) u else rise ((j : Int) - 7) u)

/-! ### DECODE: the demodulator -/

/-- R242: the burst MODULATE writes measures `bc = −320` in an even and `+320` in an odd field, `bs = 0`, on every line. -/
def Obligations.CleanBurstMeasures : Prop :=
  ∀ (raw : Nat → Int) (f : Bool) (n : Nat), n < 262 →
    (∀ o, 101 ≤ o → o ≤ 132 → raw (910 * n + o) = -20 * cos4 (910 * n + o + 2 * f.toNat)) →
    lineBurst raw (910 * n) = ⟨if f then 320 else -320, 0⟩

/-- R242, R243, R251, R252: a line whose burst measures below the colour killer decodes to grey at every column, with and
without bloom, whatever the calibration. -/
def Obligations.ColourKillerGivesGrey : Prop :=
  ∀ (raw : Nat → Int) (c : Calibration) (bloomEn : Bool) (sn xv : Nat),
    |(gateSums raw sn).bc| + |(gateSums raw sn).bs| < 160 →
    (lineColumn raw c bloomEn sn xv).r = (lineColumn raw c bloomEn sn xv).g
      ∧ (lineColumn raw c bloomEn sn xv).g = (lineColumn raw c bloomEn sn xv).b

/-- R244, R245, R259: on a signal of period 4 in the buffer index the luma filter gives twice the sum of the four samples
(so nothing of the subcarrier), and with the nominal burst `bc = −320`, `bs = 0` the chroma filters give four times the
differences of opposite samples. -/
def Obligations.PeriodicSignalDemodulates : Prop :=
  ∀ (raw : Nat → Int) (s0 s1 s2 s3 : Int) (sn t : Nat),
    (∀ a < 238420, raw a = if a % 4 = 0 then s0 else if a % 4 = 1 then s1 else if a % 4 = 2 then s2 else s3) →
    luma8 raw sn t = 2 * (s0 + s1 + s2 + s3)
      ∧ chromaQ raw ⟨-320, 0⟩ sn t = 4 * (s0 - s2) ∧ chromaI raw ⟨-320, 0⟩ sn t = 4 * (s1 - s3)

/-- R245: flat luma makes no chroma, whatever the burst and the line start. -/
def Obligations.FlatLumaMakesNoChroma : Prop :=
  ∀ (raw : Nat → Int) (v : Int) (b : BurstVec) (sn t : Nat), (∀ a < 238420, raw a = v) →
    mixDown raw (refCos b) sn t = 0 ∧ mixDown raw (refSin b) sn t = 0

/-- R251, R252, R255: every channel of every column is in [0, 255], with and without bloom, whatever the signal and the
calibration, so that the packed cell holds R, G and B in bits 23:16, 15:8 and 7:0. -/
def Obligations.OutputChannelsInRange : Prop :=
  ∀ (raw : Nat → Int) (c : Calibration) (bloomEn : Bool) (sn xv : Nat), xv < 736 →
    let k := lineColumn raw c bloomEn sn xv
    (0 ≤ k.r ∧ k.r ≤ 255) ∧ (0 ≤ k.g ∧ k.g ≤ 255) ∧ (0 ≤ k.b ∧ k.b ≤ 255)
      ∧ Pixel.red (packPixel k) = k.r ∧ Pixel.green (packPixel k) = k.g ∧ Pixel.blue (packPixel k) = k.b

/-- R258: with colour disabled and noise 0, a MODULATE and a DECODE from counters 0 give R = G = B in every output pixel,
for every frame, parity, calibration and output geometry, with and without bloom. -/
def Obligations.MonochromeInvariance : Prop :=
  ∀ (s : State) (p w h : Nat) (f : Bool), DeviceReady s → GoodDims s w h → SourceMapped s p w h f → OutputMapped s →
    s.hsync = 0 → s.vsync = 0 →
    ∃ t u, exec (.modulate p w h false f) s = .next t ∧ exec (.decode 0) t = .next u
      ∧ ∀ i < s.outw * s.outh,
        Pixel.red (u.pixel (s.outBase.toNat + i)) = Pixel.green (u.pixel (s.outBase.toNat + i))
        ∧ Pixel.green (u.pixel (s.outBase.toNat + i)) = Pixel.blue (u.pixel (s.outBase.toNat + i))

/-- R259: with a uniform source frame of any size, colour enabled, either parity, bloom off, counters 0 and noise 0, a
MODULATE and a DECODE leave the counters at 0 and every output pixel is one value: the closed form of the rule, from the
four active samples of the colour, for every calibration and output geometry. -/
def Obligations.UniformFieldRoundTrip : Prop :=
  ∀ (s : State) (p w h : Nat) (f : Bool) (v : Pixel), DeviceReady s → GoodDims s w h → SourceMapped s p w h f →
    OutputMapped s → s.hsync = 0 → s.vsync = 0 → s.params.bloomEn = false → (∀ i < w * h, s.pixel (p + i) = v) →
    ∃ t u, exec (.modulate p w h true f) s = .next t ∧ exec (.decode 0) t = .next u ∧ u.hsync = 0 ∧ u.vsync = 0
      ∧ ∀ i < s.outw * s.outh,
        u.pixel (s.outBase.toNat + i)
          = packPixel (toRGB
              (calibrateLuma s.cal (2 * (activeSample v true 0 + activeSample v true 1 + activeSample v true 2
                + activeSample v true 3)))
              (calibrateChroma s.cal (4 * (activeSample v true 1 - activeSample v true 3)))
              (calibrateChroma s.cal (4 * (activeSample v true 0 - activeSample v true 2))))

/-- R260 and R261: a uniform red frame modulated in colour and decoded without noise or bloom gives 0xFD0100 in every output
pixel at default calibration, and 0xB23435 at the calibration of R261. -/
def Obligations.RedFieldWorkedExamples : Prop :=
  ∀ (s : State) (p w h : Nat) (f : Bool), DeviceReady s → GoodDims s w h → SourceMapped s p w h f → OutputMapped s →
    s.hsync = 0 → s.vsync = 0 → s.params.bloomEn = false → (∀ i < w * h, s.pixel (p + i) = 0xFF0000) →
    ∃ t u, exec (.modulate p w h true f) s = .next t ∧ exec (.decode 0) t = .next u
      ∧ ∀ i < s.outw * s.outh,
        (s.cal = Calibration.default → u.pixel (s.outBase.toNat + i) = 0xFD0100)
        ∧ (s.cal = { brightness := -5, contrast := 160, saturation := 64, blackPoint := 10, whitePoint := 90 } →
            u.pixel (s.outBase.toNat + i) = 0xB23435)

/-! ### The ports -/

/-- R30: the bits of STATUS. -/
def Obligations.StatusBits : Prop :=
  ∀ s : State,
    (statusWord s).getLsbD 0 = s.running.isSome ∧ (statusWord s).getLsbD 1 = s.ready
    ∧ (statusWord s).getLsbD 2 = s.fault ∧ (statusWord s).getLsbD 3 = false
    ∧ (statusWord s).extractLsb' 4 4 = s.fcode ∧ (statusWord s).getLsbD 8 = s.params.bloomEn
    ∧ ∀ i, 9 ≤ i → (statusWord s).getLsbD i = false

/-- R35, R34, R37: a register read, at any time, answers a word and changes no state of the block (the model records the
answer and counts the draw). STATUS is always the assembled word. On an idle block reserved indices read 0; before INIT the
others read free values; on a ready block that no F_BUSY has scrambled (R331) they read the field of R34, brightness in
two's complement. -/
def Obligations.RegisterReadAnswers : Prop :=
  ∀ (s : State) (i : Nat) (rest : List Event), s.events = .regRead i :: rest →
    ∃ v : Word, step s = .next { s with events := rest, draws := s.draws + 1, reply := some (.word v) }
      ∧ (i = 0 → v = statusWord s)
      ∧ (s.running = none →
        (12 ≤ i → v = 0)
        ∧ (1 ≤ i → i ≤ 11 → s.ready = false → v = Config.freeWord s.draws)
        ∧ (s.ready = true → ¬ (s.fault = true ∧ s.fcode = 5) →
          (i = 1 → v.toNat = s.hsync % 2 ^ 32) ∧ (i = 2 → v.toNat = s.vsync % 2 ^ 32)
          ∧ (i = 3 → v = BitVec.ofInt 32 s.cal.brightness) ∧ (i = 4 → v = BitVec.ofInt 32 s.cal.contrast)
          ∧ (i = 5 → v = BitVec.ofInt 32 s.cal.saturation) ∧ (i = 6 → v = BitVec.ofInt 32 s.cal.blackPoint)
          ∧ (i = 7 → v = BitVec.ofInt 32 s.cal.whitePoint) ∧ (i = 8 → v.toNat = s.outw % 2 ^ 32)
          ∧ (i = 9 → v.toNat = s.outh % 2 ^ 32) ∧ (i = 10 → v = s.outBase) ∧ (i = 11 → v = s.rng)))

/-- R36, R37: a register write on a block that is not executing a command. After a fault it is ignored; read-only and
reserved indices are ignored; before INIT a calibration register records F_NOT_READY; else the signed value is stored
clamped to the field's range. Nothing else changes. -/
def Obligations.RegisterWriteClamps : Prop :=
  ∀ (s : State) (i : Nat) (v : Word) (rest : List Event), s.running = none → s.events = .regWrite i v :: rest →
    (s.fault = true → step s = .next { s with events := rest })
    ∧ (s.fault = false →
      ((i < 3 ∨ 7 < i) → step s = .next { s with events := rest })
      ∧ (3 ≤ i → i ≤ 7 → s.ready = false → step s = .next { s with events := rest, fault := true, fcode := 2 })
      ∧ (s.ready = true →
        (i = 3 → step s = .next
          { s with events := rest, cal := { s.cal with brightness := max (-100) (min 100 v.toInt) } })
        ∧ (i = 4 → step s = .next { s with events := rest, cal := { s.cal with contrast := max 0 (min 255 v.toInt) } })
        ∧ (i = 5 → step s = .next { s with events := rest, cal := { s.cal with saturation := max 0 (min 255 v.toInt) } })
        ∧ (i = 6 → step s = .next { s with events := rest, cal := { s.cal with blackPoint := max 0 (min 50 v.toInt) } })
        ∧ (i = 7 → step s = .next
          { s with events := rest, cal := { s.cal with whitePoint := max 60 (min 127 v.toInt) } })))

/-- R64, R297, R299: the sample port inside the buffer, on a block that is not executing a command. `AnaWrite` is ignored
after a fault, records F_NOT_READY before INIT, and else changes that cell of the analog buffer and nothing else, so that
`AnaRead` then answers the value written. `AnaRead` answers the cell (a free value before INIT) and `RawRead` the cell of the
raw buffer; neither changes anything of the block, faulted or not (the model records the answer and counts the draw). -/
def Obligations.AnalogWriteThenRead : Prop :=
  ∀ (s : State) (k : Nat) (v : Sample) (rest : List Event), s.running = none → k < 238420 →
    (s.events = .anaWrite k v :: rest →
      (s.fault = true → step s = .next { s with events := rest })
      ∧ (s.fault = false → s.ready = false → step s = .next { s with events := rest, fault := true, fcode := 2 })
      ∧ (s.fault = false → s.ready = true →
        ∃ t, step s = .next t ∧ t = { s with analog := t.analog, events := rest }
          ∧ (∀ d i, t.analog.get d i = if i = k then v else s.analog.get d i)
          ∧ ∀ rest', step { t with events := .anaRead k :: rest' }
              = .next { t with events := rest', draws := t.draws + 1, reply := some (.sample v) }))
    ∧ (s.events = .anaRead k :: rest →
      step s = .next
        { s with
          events := rest
          draws := s.draws + 1
          reply := some (.sample (if s.ready = true then s.analog.get s.draws k else Config.freeSample s.draws k)) })
    ∧ (s.events = .rawRead k :: rest →
      step s = .next
        { s with events := rest, draws := s.draws + 1, reply := some (.sample (s.raw.get s.draws k)) })

/-- R301, R65: an `AnaWrite` with index N or above records F_BAD_INDEX and writes nothing; a read with such an index answers
a free value and is not a fault. -/
def Obligations.BadIndexFault : Prop :=
  ∀ (s : State) (k : Nat) (v : Sample) (rest : List Event), 238420 ≤ k →
    (DeviceReady s → s.events = .anaWrite k v :: rest →
      step s = .next { s with events := rest, fault := true, fcode := 7 })
    ∧ (s.events = .anaRead k :: rest ∨ s.events = .rawRead k :: rest →
      step s = .next
        { s with events := rest, reply := some (.sample (Config.freeSample s.draws k)), draws := s.draws + 1 })

/-! ### Faults, reset, commands in progress -/

/-- R296 with the codes of R291: recording a fault sets `fault` and `fcode` if none is recorded, keeps the first code
otherwise, ends the command and writes nothing else. -/
def Obligations.FirstFaultKept : Prop :=
  ∀ (s : State) (c : FaultCode),
    raiseFault c s
      = { s with
          fault := true
          running := none
          fcode := if s.fault = true then s.fcode else
            match c with
            | .illegalCmd => 1 | .notReady => 2 | .badGeometry => 3 | .badImage => 4
            | .busy => 5 | .mem => 6 | .badIndex => 7 }

/-- R300, R331: a packet, a register write or an `AnaWrite` while a command executes records F_BUSY and abandons the command;
`ready` keeps its value. A read then is no fault and changes nothing of the block: STATUS shows BUSY = 1, any other register
and any cell of the sample port answer a free value. That the rest of the Device holds free values after F_BUSY is the model's
form of "unspecified" (log 8); that the reserved register indices too answer a free value while a command executes is the
model's reading (log 14: R300 over R35 and R37). -/
def Obligations.BusyTransactionFault : Prop :=
  ∀ (s : State) (r : Running) (e : Event) (rest : List Event), s.fault = false → s.running = some r →
    s.events = e :: rest →
    ((∃ p, e = .command p) ∨ (∃ p, e = .start p) ∨ (∃ i v, e = .regWrite i v) ∨ (∃ k v, e = .anaWrite k v) →
      ∃ t, step s = .next t ∧ t.fault = true ∧ t.fcode = 5 ∧ t.running = none ∧ t.ready = s.ready
        ∧ t.events = rest ∧ t.params = s.params
        ∧ (∀ k, anaValue t k = Config.freeSample t.draws k ∧ rawValue t k = Config.freeSample t.draws k)
        ∧ (∀ i, 1 ≤ i → i ≤ 11 → regValue t i = Config.freeWord t.draws))
    ∧ (∀ i, e = .regRead i →
      ∃ t, step s = .next t ∧ t = { s with events := rest, reply := t.reply, draws := s.draws + 1 }
        ∧ (i = 0 → t.reply = some (.word (statusWord s)) ∧ (statusWord s).getLsbD 0 = true)
        ∧ (i ≠ 0 → t.reply = some (.word (Config.freeWord s.draws))))
    ∧ (∀ k, e = .anaRead k ∨ e = .rawRead k →
      step s = .next
        { s with events := rest, reply := some (.sample (Config.freeSample s.draws k)), draws := s.draws + 1 })

/-- The model's choice (log 7): a command whose completion the host does not wait for is the pair of transactions `start` and
`finish`, and with nothing in between the pair has exactly the effect of the command in one step, the atomic command of
R10. -/
def Obligations.StartThenFinishIsCommand : Prop :=
  ∀ (s : State) (p : Packet) (i : Instr) (rest : List Event), decode p = .command i → canRun i s = true →
    core.run 2 { s with events := .start p :: .finish :: rest } = step { s with events := .command p :: rest }

/-- R332: a host write to the source frame during a MODULATE is no fault, and each sample of the picture is computed from the
old or the new pixel. -/
def Obligations.SourceWriteDuringModulate : Prop :=
  ∀ (s : State) (p w h : Nat) (c f : Bool) (a : Nat) (v : Pixel) (rest : List Event),
    s.fault = false → s.ready = true → s.running = some ⟨.modulate p w h c f, [], []⟩ →
    GoodDims s w h → SourceMapped s p w h f → s.mapped a = true → s.events = .pixWrite a v :: .finish :: rest →
    ∃ t, core.run 2 s = .next t ∧ t.fault = false ∧ t.running = none ∧ t.pixel a = v
      ∧ ∀ d, ∀ k < 238420, inPicture (k / 910) (k % 910) = true →
        (t.analog.get d k).toInt = activeSample (s.pixel (sourceAddr p w h f k)) c (theta k f)
        ∨ (sourceAddr p w h f k = a ∧ (t.analog.get d k).toInt = activeSample v c (theta k f))

/-- R320, R322: power-on reset in any state leaves `ready`, `fault`, `fcode` and BUSY at 0, so that STATUS reads
`BLOOM_EN << 8`; both buffers are unspecified. With no DECODE in progress pixel memory is untouched; with one, each cell of
its output buffer that a map since it began has keeps its old value or holds the value of the DECODE (R322; the map is the
model's choice, log 13), and every other cell keeps its value. -/
def Obligations.PowerOnResetClears : Prop :=
  ∀ (s : State) (rest : List Event), s.events = .powerOn :: rest →
    ∃ t, step s = .next t ∧ t.ready = false ∧ t.fault = false ∧ t.fcode = 0 ∧ t.running = none
      ∧ statusWord t = (if s.params.bloomEn then 0x100 else 0x000)
      ∧ t.analog.fill = .unspecified ∧ t.raw.fill = .unspecified ∧ t.params = s.params ∧ t.events = rest
      ∧ ((∀ r n, s.running = some r → r.instr ≠ .decode n) → ∀ a, t.pixel a = s.pixel a)
      ∧ ∀ a, t.pixel a = s.pixel a
        ∨ ∃ r n, s.running = some r ∧ r.instr = .decode n
          ∧ (s.outBase.toNat ≤ a ∧ a < s.outBase.toNat + s.outw * s.outh)
          ∧ (s.mapped a = true ∨ ∃ m ∈ r.maps, mappedIn m a = true)
          ∧ t.pixel a = (decodeStages n s).cell (a - s.outBase.toNat)

/-! ### The machine as a whole -/

/-- The state right after reset has the invariant. The ranges of the registers the spec leaves unspecified at power-on hold
by the model's own choice of values (log 1, log 5). -/
def Obligations.ResetHasInvariant : Prop :=
  Inv State.reset

/-- Every step keeps the invariant: the ranges of every field (R24 to R31), both buffers and pixel memory in canonical form,
the fault bits consistent (R291), a defined analog buffer on a ready, unfaulted Device (R38, R298), and a command in
progress one that passed its checks (R295). That the fields stay in their ranges after an F_BUSY is the model's choice (log 8),
and after a power-on reset they hold the model's values (log 1). -/
def Obligations.StepKeepsInvariant : Prop :=
  ∀ s t : State, Inv s → step s = .next t → Inv t

/-! ### Reads of what a DECODE writes -/

/-- R335: `RawRead` answers the signal of the most recent DECODE, noise included (R184), whether or not its output buffer was
mapped; a MODULATE does not change it; after an INIT, before any DECODE, it answers a free value. The reads change nothing of
the block. -/
def Obligations.RawReadShowsLastDecode : Prop :=
  (∀ (s : State) (noise : Nat), DeviceReady s →
    ∃ t, exec (.decode noise) s = .next t
      ∧ (∀ k < 238420, ∀ rest, ∃ v : Sample,
        step { t with events := .rawRead k :: rest }
            = .next { t with events := rest, draws := t.draws + 1, reply := some (.sample v) }
          ∧ let r : Word := (fun r : Word => 214019 * r + 140327895)^[k + 1] s.rng
            let r8 : Int := (r.toNat / 65536 % 256 : Nat)
            v.toInt = max (-127) (min 127 ((s.analog.get s.draws k).toInt + (r8 - 127) * (noise : Int) / 256)))
      ∧ ∀ p w h c f, ∃ u, exec (.modulate p w h c f) t = .next u ∧ u.raw = t.raw)
  ∧ ∀ (s : State) (w h p : Nat), Idle s → GoodDims s w h →
    ∃ t, exec (.init w h p) s = .next t
      ∧ ∀ k rest, step { t with events := .rawRead k :: rest }
          = .next
            { t with events := rest, draws := t.draws + 1, reply := some (.sample (Config.freeSample t.draws k)) }

/-- R332: a host read of a mapped pixel cell while a DECODE executes records no fault and changes nothing of the block or of
pixel memory; it answers what the cell holds or, in the output buffer, possibly the value the DECODE writes there. -/
def Obligations.OutputReadDuringDecode : Prop :=
  ∀ (s : State) (r : Running) (n a : Nat) (rest : List Event), s.running = some r → r.instr = .decode n →
    s.mapped a = true → s.events = .pixRead a :: rest →
    ∃ v : Pixel, step s = .next { s with events := rest, draws := s.draws + 1, reply := some (.pixel v) }
      ∧ (v = s.pixel a
        ∨ ((s.outBase.toNat ≤ a ∧ a < s.outBase.toNat + s.outw * s.outh)
          ∧ v = (decodeStages n s).cell (a - s.outBase.toNat)))
end

