-- ==== Sys2Proof/Laws/Arith.lean ====
section
/-! SUPPORT. Laws of the spec's arithmetic: clamping, sums, buffer indices, the carrier table. -/

namespace Sys2Proof.Machine

/-- N as a number, for arithmetic. -/
theorem bufLen_eq : bufLen = 238420 := rfl

theorem le_clamp {v lo hi : Int} (h : lo ≤ hi) : lo ≤ clamp v lo hi := by
  unfold clamp; split <;> (try split) <;> omega

theorem clamp_le {v lo hi : Int} (h : lo ≤ hi) : clamp v lo hi ≤ hi := by
  unfold clamp; split <;> (try split) <;> omega

theorem clamp_of_mem {v lo hi : Int} (h₁ : lo ≤ v) (h₂ : v ≤ hi) : clamp v lo hi = v := by
  unfold clamp; split <;> (try split) <;> omega

theorem sumTo_congr {n : Nat} {f g : Nat → Int} (h : ∀ i < n, f i = g i) : sumTo n f = sumTo n g := by
  induction n with
  | zero => rfl
  | succ n ih =>
    simp only [sumTo]
    rw [ih fun i hi => h i (by omega), h n (by omega)]

theorem sumTo_eq_zero {n : Nat} {f : Nat → Int} (h : ∀ i < n, f i = 0) : sumTo n f = 0 := by
  induction n with
  | zero => rfl
  | succ n ih =>
    simp only [sumTo]
    rw [ih fun i hi => h i (by omega), h n (by omega)]
    rfl

theorem wrapIndex_eq (i : Int) : wrapIndex i = (i % 238420).toNat := rfl

theorem wrapIndex_lt (i : Int) : wrapIndex i < bufLen := by
  simp only [wrapIndex_eq, bufLen]; omega

theorem wrapIndex_of_lt {k : Nat} (h : k < bufLen) : wrapIndex (k : Int) = k := by
  simp only [wrapIndex_eq, bufLen] at *; omega

@[simp] theorem cos4_mod (p : Nat) : cos4 (p % 4) = cos4 p := by
  simp [cos4]

@[simp] theorem sin4_mod (p : Nat) : sin4 (p % 4) = sin4 p := by
  simp [sin4]

theorem cos4_cases (p : Nat) : cos4 p = 1 ∨ cos4 p = 0 ∨ cos4 p = -1 := by
  unfold cos4; split <;> simp

theorem sin4_cases (p : Nat) : sin4 p = 1 ∨ sin4 p = 0 ∨ sin4 p = -1 := by
  unfold sin4; split <;> simp

end Sys2Proof.Machine
end

