-- ==== Sys2Proof/Laws/Cells.lean ====
section
/-! SUPPORT. Laws of the sparse memories: what a read finds after a block of cells was written, and that the addresses
keep rising. -/

namespace Sys2Proof.Machine

variable {α : Type}

@[simp] theorem findCell_nil (k : Nat) : findCell ([] : List (Nat × α)) k = none := rfl

theorem findCell_append (l₁ l₂ : List (Nat × α)) (k : Nat) :
    findCell (l₁ ++ l₂) k = (findCell l₁ k).or (findCell l₂ k) := by
  induction l₁ with
  | nil => rfl
  | cons c l₁ ih =>
    obtain ⟨a, v⟩ := c
    by_cases h : a = k <;> simp [findCell, h, ih]

theorem findCell_filter (p : Nat → Bool) (l : List (Nat × α)) (k : Nat) :
    findCell (l.filter fun c => p c.1) k = if p k then findCell l k else none := by
  induction l with
  | nil => simp
  | cons c l ih =>
    obtain ⟨a, v⟩ := c
    by_cases ha : a = k
    · subst ha
      cases hp : p a <;> simp [hp, findCell, ih]
    · cases hp : p a <;> simp [hp, findCell, ih, ha]

/-- A cell found is listed. -/
theorem mem_of_findCell {l : List (Nat × α)} {k : Nat} {v : α} (h : findCell l k = some v) : (k, v) ∈ l := by
  induction l with
  | nil => simp at h
  | cons c l ih =>
    obtain ⟨a, w⟩ := c
    by_cases ha : a = k
    · subst ha; simp [findCell] at h; simp [h]
    · simp [findCell, ha] at h; simp [ih h]

theorem findCell_eq_none {l : List (Nat × α)} {k : Nat} (h : ∀ c ∈ l, c.1 ≠ k) : findCell l k = none := by
  cases hf : findCell l k with
  | none => rfl
  | some v => exact absurd rfl (h _ (mem_of_findCell hf))

/-- Reading the block of cells that lists `f i` at `base + i`. -/
theorem findCell_block (base n : Nat) (f : Nat → Option α) (k : Nat) :
    findCell ((List.range n).filterMap fun i => (f i).map fun v => (base + i, v)) k
      = if base ≤ k ∧ k < base + n then f (k - base) else none := by
  induction n with
  | zero => simp
  | succ n ih =>
    rw [List.range_succ, List.filterMap_append, findCell_append, ih]
    by_cases h : base ≤ k ∧ k < base + n
    · rw [if_pos h, if_pos ⟨h.1, by omega⟩]
      have hne : ¬ base + n = k := by omega
      cases f (k - base) <;> cases hn : f n <;> simp [findCell, hn, hne]
    · rw [if_neg h]
      by_cases hk : base + n = k
      · subst hk
        cases hn : f n <;> simp [findCell, hn]
      · have : ¬ (base ≤ k ∧ k < base + (n + 1)) := by omega
        rw [if_neg this]
        cases hn : f n <;> simp [findCell, hn, hk]

/-- What a read finds after a splice: the new entry inside the block, the old one outside. -/
theorem findCell_splice (base n : Nat) (f : Nat → Option α) (m : List (Nat × α)) (k : Nat) :
    findCell (spliceCells base n f m) k = if base ≤ k ∧ k < base + n then f (k - base) else findCell m k := by
  have h₁ : findCell (m.filter fun c => c.1 < base) k = if k < base then findCell m k else none := by
    simpa using findCell_filter (fun a => decide (a < base)) m k
  have h₂ : findCell (m.filter fun c => base + n ≤ c.1) k = if base + n ≤ k then findCell m k else none := by
    simpa using findCell_filter (fun a => decide (base + n ≤ a)) m k
  simp only [spliceCells, findCell_append, findCell_block, h₁, h₂]
  by_cases hlt : k < base
  · have a : ¬ (base ≤ k ∧ k < base + n) := by omega
    have b : ¬ base + n ≤ k := by omega
    simp [hlt, a, b]
  · by_cases hge : base + n ≤ k
    · have a : ¬ (base ≤ k ∧ k < base + n) := by omega
      simp [hlt, hge, a]
    · have a : base ≤ k ∧ k < base + n := by omega
      simp [hlt, hge, a]

/-- An entry of a splice is an old one outside the block or a new one inside it. -/
theorem mem_splice {base n : Nat} {f : Nat → Option α} {m : List (Nat × α)} {c : Nat × α}
    (h : c ∈ spliceCells base n f m) :
    (c ∈ m ∧ ¬ (base ≤ c.1 ∧ c.1 < base + n)) ∨ ∃ i < n, c.1 = base + i ∧ f i = some c.2 := by
  simp only [spliceCells, List.mem_append, List.mem_filter, List.mem_filterMap, List.mem_range, Option.map_eq_some_iff,
    decide_eq_true_eq] at h
  rcases h with (⟨hm, hlt⟩ | ⟨i, hi, v, hv, rfl⟩) | ⟨hm, hge⟩
  · exact .inl ⟨hm, by omega⟩
  · exact .inr ⟨i, hi, rfl, hv⟩
  · exact .inl ⟨hm, by omega⟩

theorem sorted_block (base n : Nat) (f : Nat → Option α) :
    SortedCells ((List.range n).filterMap fun i => (f i).map fun v => (base + i, v)) := by
  refine List.Pairwise.filterMap _ ?_ List.pairwise_lt_range
  intro i j hij c hc d hd
  simp only [Option.map_eq_some_iff] at hc hd
  obtain ⟨v, -, rfl⟩ := hc
  obtain ⟨w, -, rfl⟩ := hd
  show base + i < base + j
  omega

/-- A splice keeps the addresses rising. -/
theorem sorted_splice (base n : Nat) (f : Nat → Option α) {m : List (Nat × α)} (h : SortedCells m) :
    SortedCells (spliceCells base n f m) := by
  have hblock : ∀ c ∈ ((List.range n).filterMap fun i => (f i).map fun v => (base + i, v)),
      base ≤ c.1 ∧ c.1 < base + n := by
    intro c hc
    simp only [List.mem_filterMap, List.mem_range, Option.map_eq_some_iff] at hc
    obtain ⟨i, hi, v, -, rfl⟩ := hc
    exact ⟨by simp, by simpa using hi⟩
  unfold SortedCells spliceCells
  rw [List.pairwise_append, List.pairwise_append]
  refine ⟨⟨h.filter _, sorted_block base n f, ?_⟩, h.filter _, ?_⟩
  · intro c hc d hd
    have h₁ : c.1 < base := by simpa using (List.mem_filter.1 hc).2
    exact lt_of_lt_of_le h₁ (hblock d hd).1
  · intro c hc d hd
    have h₂ : base + n ≤ d.1 := by simpa using (List.mem_filter.1 hd).2
    rcases List.mem_append.1 hc with hc | hc
    · have h₁ : c.1 < base := by simpa using (List.mem_filter.1 hc).2
      omega
    · exact lt_of_lt_of_le (hblock c hc).2 h₂

/-- In a sorted memory a listed cell is the one a read finds. -/
theorem findCell_of_mem {l : List (Nat × α)} (hs : SortedCells l) {k : Nat} {v : α} (h : (k, v) ∈ l) :
    findCell l k = some v := by
  induction l with
  | nil => simp at h
  | cons c l ih =>
    obtain ⟨a, w⟩ := c
    have hs' := List.pairwise_cons.1 hs
    rcases List.mem_cons.1 h with heq | hmem
    · cases heq; simp [findCell]
    · have : a < k := hs'.1 _ hmem
      have hne : ¬ a = k := by omega
      simp [findCell, hne, ih hs'.2 hmem]

/-- Two sorted memories with the same reads are equal. -/
theorem cells_ext : ∀ {l₁ l₂ : List (Nat × α)}, SortedCells l₁ → SortedCells l₂ →
    (∀ k, findCell l₁ k = findCell l₂ k) → l₁ = l₂
  | [], [], _, _, _ => rfl
  | [], (b, w) :: l₂, _, _, h => by have := h b; simp [findCell] at this
  | (a, v) :: l₁, [], _, _, h => by have := h a; simp [findCell] at this
  | (a, v) :: l₁, (b, w) :: l₂, h₁, h₂, h => by
    have h₁' := List.pairwise_cons.1 h₁
    have h₂' := List.pairwise_cons.1 h₂
    have ha := h a
    have hb := h b
    simp only [findCell, if_true] at ha hb
    have hab : a = b := by
      by_contra hne
      have hba : ¬ b = a := fun e => hne e.symm
      rw [if_neg hba] at ha
      rw [if_neg hne] at hb
      have l1 : b < a := h₂'.1 _ (mem_of_findCell ha.symm)
      have l2 : a < b := h₁'.1 _ (mem_of_findCell hb)
      omega
    subst hab
    simp only [if_true, Option.some.injEq] at ha
    subst ha
    congr 1
    refine cells_ext h₁'.2 h₂'.2 fun k => ?_
    have hk := h k
    by_cases hak : a = k
    · subst hak
      rw [findCell_eq_none fun c hc => Nat.ne_of_gt (h₁'.1 c hc),
        findCell_eq_none fun c hc => Nat.ne_of_gt (h₂'.1 c hc)]
    · simpa [findCell, hak] using hk

end Sys2Proof.Machine
end

