-- ==== Sys2Proof/Laws/Buffers.lean ====
section
/-! SUPPORT. Laws of the sample buffers: what a read finds after a write, and that every operation keeps the canonical
form. -/

namespace Sys2Proof.Machine

@[simp] theorem blankSample_zero (d k : Nat) : blankSample .zero d k = 0 := rfl

@[simp] theorem SampleBuf.set_fill (b : SampleBuf) (k : Nat) (v : Sample) : (b.set k v).fill = b.fill := rfl

@[simp] theorem SampleBuf.ofFn_fill (f : Nat → Int) : (SampleBuf.ofFn f).fill = .zero := by
  unfold SampleBuf.ofFn; rfl

theorem SampleBuf.ofFn_cells (f : Nat → Int) :
    (SampleBuf.ofFn f).cells = spliceCells 0 bufLen (fun k => sampleEntry .zero (BitVec.ofInt 8 (f k))) [] := by
  unfold SampleBuf.ofFn; rfl

@[simp] theorem SampleBuf.zeros_fill : SampleBuf.zeros.fill = .zero := rfl

@[simp] theorem SampleBuf.open_fill : SampleBuf.open.fill = .unspecified := rfl

@[simp] theorem SampleBuf.zeros_get (d k : Nat) : SampleBuf.zeros.get d k = 0 := rfl

@[simp] theorem SampleBuf.open_get (d k : Nat) : SampleBuf.open.get d k = Config.freeSample d k := rfl

/-- Reading back an entry gives the value it was made for. -/
theorem sampleEntry_getD (f : Fill) (v : Sample) (d k : Nat) :
    (sampleEntry f v).getD (blankSample f d k) = v := by
  unfold sampleEntry
  split
  · next h => simp [h.1, h.2]
  · rfl

/-- Read after write: the written cell holds the value, every other cell what it held. -/
theorem SampleBuf.get_set (b : SampleBuf) (k : Nat) (v : Sample) (d i : Nat) :
    (b.set k v).get d i = if i = k then v else b.get d i := by
  unfold SampleBuf.get SampleBuf.set
  simp only [findCell_splice]
  by_cases h : i = k
  · subst h
    simp [sampleEntry_getD]
  · have : ¬ (k ≤ i ∧ i < k + 1) := by omega
    rw [if_neg this, if_neg h]

/-- Every cell of a buffer written whole holds its value. -/
theorem SampleBuf.get_ofFn (f : Nat → Int) (d : Nat) {k : Nat} (h : k < bufLen) :
    (SampleBuf.ofFn f).get d k = BitVec.ofInt 8 (f k) := by
  unfold SampleBuf.get SampleBuf.ofFn
  have hk : 0 ≤ k ∧ k < 0 + bufLen := by omega
  simp only [findCell_splice]
  rw [if_pos hk, Nat.sub_zero, sampleEntry_getD]

/-- A value of the signed 8-bit range survives being stored. -/
theorem toInt_ofInt8 {v : Int} (h₁ : -128 ≤ v) (h₂ : v ≤ 127) : (BitVec.ofInt 8 v).toInt = v := by
  rw [BitVec.toInt_ofInt]
  simp only [Int.bmod_def]
  omega

/-- A buffer written whole with values of [−128, 127] reads back as written. -/
theorem SampleBuf.get_ofFn_toInt (f : Nat → Int) (d : Nat) {k : Nat} (h : k < bufLen)
    (h₁ : -128 ≤ f k) (h₂ : f k ≤ 127) : ((SampleBuf.ofFn f).get d k).toInt = f k := by
  rw [SampleBuf.get_ofFn f d h, toInt_ofInt8 h₁ h₂]

theorem SampleBuf.set_wf {b : SampleBuf} (hb : b.wf) {k : Nat} (hk : k < bufLen) (v : Sample) : (b.set k v).wf := by
  refine ⟨sorted_splice _ _ _ hb.1, ?_, ?_⟩
  · intro c hc
    rcases mem_splice hc with ⟨hm, -⟩ | ⟨i, hi, hc1, -⟩
    · exact hb.2.1 c hm
    · omega
  · intro hf c hc
    have hf' : b.fill = .zero := hf
    rcases mem_splice hc with ⟨hm, -⟩ | ⟨i, hi, -, hv⟩
    · exact hb.2.2 hf' c hm
    · simp only [sampleEntry, hf', true_and, Option.ite_none_left_eq_some, Option.some.injEq] at hv
      exact hv.2 ▸ hv.1

theorem SampleBuf.zeros_wf : SampleBuf.zeros.wf := by
  simp [SampleBuf.wf, SampleBuf.zeros]

theorem SampleBuf.open_wf : SampleBuf.open.wf := by
  simp [SampleBuf.wf, SampleBuf.open]

/-- An entry of a buffer written whole: where it lies and what it holds. -/
theorem SampleBuf.mem_ofFn {f : Nat → Int} {c : Host.Cell} (h : c ∈ (SampleBuf.ofFn f).cells) :
    c.1 < bufLen ∧ c.2 = BitVec.ofInt 8 (f c.1) ∧ c.2 ≠ 0 := by
  rw [SampleBuf.ofFn_cells] at h
  rcases mem_splice h with ⟨hm, -⟩ | ⟨k, hk, hc, hv⟩
  · simp at hm
  · simp only [sampleEntry, true_and, Option.ite_none_left_eq_some, Option.some.injEq] at hv
    rw [Nat.zero_add] at hc
    rw [hc, ← hv.2]
    exact ⟨hk, rfl, hv.1⟩

theorem SampleBuf.ofFn_wf (f : Nat → Int) : (SampleBuf.ofFn f).wf :=
  ⟨SampleBuf.ofFn_cells f ▸ sorted_splice _ _ _ List.Pairwise.nil, fun _ hc => (SampleBuf.mem_ofFn hc).1,
    fun _ _ hc => (SampleBuf.mem_ofFn hc).2.2⟩

theorem foldr_set_size (l : List Host.Cell) (a : Array Int) :
    (l.foldr (fun c a => a.setIfInBounds c.1 c.2.toInt) a).size = a.size := by
  induction l with
  | nil => rfl
  | cons c l ih => simp [ih]

theorem foldr_set_getD (l : List Host.Cell) (a : Array Int) {k : Nat} (hk : k < a.size) :
    (l.foldr (fun c a => a.setIfInBounds c.1 c.2.toInt) a).getD k 0
      = ((findCell l k).map BitVec.toInt).getD (a.getD k 0) := by
  induction l with
  | nil => rfl
  | cons c l ih =>
    obtain ⟨i, v⟩ := c
    have hs : k < (l.foldr (fun c a => a.setIfInBounds c.1 c.2.toInt) a).size := by rw [foldr_set_size]; exact hk
    by_cases h : i = k
    · subst h
      simp [findCell, Array.getD, hs]
    · rw [List.foldr_cons]
      simp only [findCell, if_neg h, ← ih]
      simp [Array.getD, hs, h]

/-- The buffer laid out as an array holds the same values as the buffer read cell by cell. -/
theorem SampleBuf.values_getD (b : SampleBuf) (d : Nat) {k : Nat} (h : k < bufLen) :
    (b.values d).getD k 0 = (b.get d k).toInt := by
  unfold SampleBuf.values SampleBuf.get
  have hs : k < (Array.ofFn (n := bufLen) fun k => (blankSample b.fill d k).toInt).size := by simpa using h
  rw [foldr_set_getD _ _ hs]
  have : (Array.ofFn (n := bufLen) fun k => (blankSample b.fill d k).toInt).getD k 0 = (blankSample b.fill d k).toInt := by
    simp [Array.getD, h]
  rw [this]
  cases findCell b.cells k <;> rfl

end Sys2Proof.Machine
end

