-- ==== Sys2Proof/Laws/State.lean ====
section
/-! SUPPORT. One lemma per field per update of the state, so that no later proof unfolds a record update. -/

namespace Sys2Proof.Machine

@[simp] theorem bindOutput_analog (w h p : Nat) (s : State) :
    (bindOutput w h p s).analog = s.analog := rfl
@[simp] theorem bindOutput_raw (w h p : Nat) (s : State) :
    (bindOutput w h p s).raw = s.raw := rfl
@[simp] theorem bindOutput_hsync (w h p : Nat) (s : State) :
    (bindOutput w h p s).hsync = s.hsync := rfl
@[simp] theorem bindOutput_vsync (w h p : Nat) (s : State) :
    (bindOutput w h p s).vsync = s.vsync := rfl
@[simp] theorem bindOutput_cal (w h p : Nat) (s : State) :
    (bindOutput w h p s).cal = s.cal := rfl
@[simp] theorem bindOutput_outw (w h p : Nat) (s : State) :
    (bindOutput w h p s).outw = w := rfl
@[simp] theorem bindOutput_outh (w h p : Nat) (s : State) :
    (bindOutput w h p s).outh = h := rfl
@[simp] theorem bindOutput_outBase (w h p : Nat) (s : State) :
    (bindOutput w h p s).outBase = BitVec.ofNat 32 p := rfl
@[simp] theorem bindOutput_rng (w h p : Nat) (s : State) :
    (bindOutput w h p s).rng = s.rng := rfl
@[simp] theorem bindOutput_ready (w h p : Nat) (s : State) :
    (bindOutput w h p s).ready = s.ready := rfl
@[simp] theorem bindOutput_fault (w h p : Nat) (s : State) :
    (bindOutput w h p s).fault = s.fault := rfl
@[simp] theorem bindOutput_fcode (w h p : Nat) (s : State) :
    (bindOutput w h p s).fcode = s.fcode := rfl
@[simp] theorem bindOutput_running (w h p : Nat) (s : State) :
    (bindOutput w h p s).running = s.running := rfl
@[simp] theorem bindOutput_pix (w h p : Nat) (s : State) :
    (bindOutput w h p s).pix = s.pix := rfl
@[simp] theorem bindOutput_pixEpoch (w h p : Nat) (s : State) :
    (bindOutput w h p s).pixEpoch = s.pixEpoch := rfl
@[simp] theorem bindOutput_params (w h p : Nat) (s : State) :
    (bindOutput w h p s).params = s.params := rfl
@[simp] theorem bindOutput_events (w h p : Nat) (s : State) :
    (bindOutput w h p s).events = s.events := rfl
@[simp] theorem bindOutput_reply (w h p : Nat) (s : State) :
    (bindOutput w h p s).reply = s.reply := rfl
@[simp] theorem bindOutput_draws (w h p : Nat) (s : State) :
    (bindOutput w h p s).draws = s.draws := rfl

@[simp] theorem defaultCalibration_analog (s : State) :
    (defaultCalibration s).analog = s.analog := rfl
@[simp] theorem defaultCalibration_raw (s : State) :
    (defaultCalibration s).raw = s.raw := rfl
@[simp] theorem defaultCalibration_hsync (s : State) :
    (defaultCalibration s).hsync = s.hsync := rfl
@[simp] theorem defaultCalibration_vsync (s : State) :
    (defaultCalibration s).vsync = s.vsync := rfl
@[simp] theorem defaultCalibration_cal (s : State) :
    (defaultCalibration s).cal = Calibration.default := rfl
@[simp] theorem defaultCalibration_outw (s : State) :
    (defaultCalibration s).outw = s.outw := rfl
@[simp] theorem defaultCalibration_outh (s : State) :
    (defaultCalibration s).outh = s.outh := rfl
@[simp] theorem defaultCalibration_outBase (s : State) :
    (defaultCalibration s).outBase = s.outBase := rfl
@[simp] theorem defaultCalibration_rng (s : State) :
    (defaultCalibration s).rng = s.rng := rfl
@[simp] theorem defaultCalibration_ready (s : State) :
    (defaultCalibration s).ready = s.ready := rfl
@[simp] theorem defaultCalibration_fault (s : State) :
    (defaultCalibration s).fault = s.fault := rfl
@[simp] theorem defaultCalibration_fcode (s : State) :
    (defaultCalibration s).fcode = s.fcode := rfl
@[simp] theorem defaultCalibration_running (s : State) :
    (defaultCalibration s).running = s.running := rfl
@[simp] theorem defaultCalibration_pix (s : State) :
    (defaultCalibration s).pix = s.pix := rfl
@[simp] theorem defaultCalibration_pixEpoch (s : State) :
    (defaultCalibration s).pixEpoch = s.pixEpoch := rfl
@[simp] theorem defaultCalibration_params (s : State) :
    (defaultCalibration s).params = s.params := rfl
@[simp] theorem defaultCalibration_events (s : State) :
    (defaultCalibration s).events = s.events := rfl
@[simp] theorem defaultCalibration_reply (s : State) :
    (defaultCalibration s).reply = s.reply := rfl
@[simp] theorem defaultCalibration_draws (s : State) :
    (defaultCalibration s).draws = s.draws := rfl

@[simp] theorem createDevice_analog (s : State) :
    (createDevice s).analog = SampleBuf.zeros := rfl
@[simp] theorem createDevice_raw (s : State) :
    (createDevice s).raw = SampleBuf.open := rfl
@[simp] theorem createDevice_hsync (s : State) :
    (createDevice s).hsync = 0 := rfl
@[simp] theorem createDevice_vsync (s : State) :
    (createDevice s).vsync = 0 := rfl
@[simp] theorem createDevice_cal (s : State) :
    (createDevice s).cal = s.cal := rfl
@[simp] theorem createDevice_outw (s : State) :
    (createDevice s).outw = s.outw := rfl
@[simp] theorem createDevice_outh (s : State) :
    (createDevice s).outh = s.outh := rfl
@[simp] theorem createDevice_outBase (s : State) :
    (createDevice s).outBase = s.outBase := rfl
@[simp] theorem createDevice_rng (s : State) :
    (createDevice s).rng = 194 := rfl
@[simp] theorem createDevice_ready (s : State) :
    (createDevice s).ready = true := rfl
@[simp] theorem createDevice_fault (s : State) :
    (createDevice s).fault = s.fault := rfl
@[simp] theorem createDevice_fcode (s : State) :
    (createDevice s).fcode = s.fcode := rfl
@[simp] theorem createDevice_running (s : State) :
    (createDevice s).running = s.running := rfl
@[simp] theorem createDevice_pix (s : State) :
    (createDevice s).pix = s.pix := rfl
@[simp] theorem createDevice_pixEpoch (s : State) :
    (createDevice s).pixEpoch = s.pixEpoch := rfl
@[simp] theorem createDevice_params (s : State) :
    (createDevice s).params = s.params := rfl
@[simp] theorem createDevice_events (s : State) :
    (createDevice s).events = s.events := rfl
@[simp] theorem createDevice_reply (s : State) :
    (createDevice s).reply = s.reply := rfl
@[simp] theorem createDevice_draws (s : State) :
    (createDevice s).draws = s.draws := rfl

@[simp] theorem answer_analog (v : Reply) (s : State) :
    (answer v s).analog = s.analog := rfl
@[simp] theorem answer_raw (v : Reply) (s : State) :
    (answer v s).raw = s.raw := rfl
@[simp] theorem answer_hsync (v : Reply) (s : State) :
    (answer v s).hsync = s.hsync := rfl
@[simp] theorem answer_vsync (v : Reply) (s : State) :
    (answer v s).vsync = s.vsync := rfl
@[simp] theorem answer_cal (v : Reply) (s : State) :
    (answer v s).cal = s.cal := rfl
@[simp] theorem answer_outw (v : Reply) (s : State) :
    (answer v s).outw = s.outw := rfl
@[simp] theorem answer_outh (v : Reply) (s : State) :
    (answer v s).outh = s.outh := rfl
@[simp] theorem answer_outBase (v : Reply) (s : State) :
    (answer v s).outBase = s.outBase := rfl
@[simp] theorem answer_rng (v : Reply) (s : State) :
    (answer v s).rng = s.rng := rfl
@[simp] theorem answer_ready (v : Reply) (s : State) :
    (answer v s).ready = s.ready := rfl
@[simp] theorem answer_fault (v : Reply) (s : State) :
    (answer v s).fault = s.fault := rfl
@[simp] theorem answer_fcode (v : Reply) (s : State) :
    (answer v s).fcode = s.fcode := rfl
@[simp] theorem answer_running (v : Reply) (s : State) :
    (answer v s).running = s.running := rfl
@[simp] theorem answer_pix (v : Reply) (s : State) :
    (answer v s).pix = s.pix := rfl
@[simp] theorem answer_pixEpoch (v : Reply) (s : State) :
    (answer v s).pixEpoch = s.pixEpoch := rfl
@[simp] theorem answer_params (v : Reply) (s : State) :
    (answer v s).params = s.params := rfl
@[simp] theorem answer_events (v : Reply) (s : State) :
    (answer v s).events = s.events := rfl
@[simp] theorem answer_reply (v : Reply) (s : State) :
    (answer v s).reply = some v := rfl
@[simp] theorem answer_draws (v : Reply) (s : State) :
    (answer v s).draws = s.draws + 1 := rfl

@[simp] theorem State.setPixel_analog (a : Nat) (v : Pixel) (s : State) :
    (s.setPixel a v).analog = s.analog := rfl
@[simp] theorem State.setPixel_raw (a : Nat) (v : Pixel) (s : State) :
    (s.setPixel a v).raw = s.raw := rfl
@[simp] theorem State.setPixel_hsync (a : Nat) (v : Pixel) (s : State) :
    (s.setPixel a v).hsync = s.hsync := rfl
@[simp] theorem State.setPixel_vsync (a : Nat) (v : Pixel) (s : State) :
    (s.setPixel a v).vsync = s.vsync := rfl
@[simp] theorem State.setPixel_cal (a : Nat) (v : Pixel) (s : State) :
    (s.setPixel a v).cal = s.cal := rfl
@[simp] theorem State.setPixel_outw (a : Nat) (v : Pixel) (s : State) :
    (s.setPixel a v).outw = s.outw := rfl
@[simp] theorem State.setPixel_outh (a : Nat) (v : Pixel) (s : State) :
    (s.setPixel a v).outh = s.outh := rfl
@[simp] theorem State.setPixel_outBase (a : Nat) (v : Pixel) (s : State) :
    (s.setPixel a v).outBase = s.outBase := rfl
@[simp] theorem State.setPixel_rng (a : Nat) (v : Pixel) (s : State) :
    (s.setPixel a v).rng = s.rng := rfl
@[simp] theorem State.setPixel_ready (a : Nat) (v : Pixel) (s : State) :
    (s.setPixel a v).ready = s.ready := rfl
@[simp] theorem State.setPixel_fault (a : Nat) (v : Pixel) (s : State) :
    (s.setPixel a v).fault = s.fault := rfl
@[simp] theorem State.setPixel_fcode (a : Nat) (v : Pixel) (s : State) :
    (s.setPixel a v).fcode = s.fcode := rfl
@[simp] theorem State.setPixel_running (a : Nat) (v : Pixel) (s : State) :
    (s.setPixel a v).running = s.running := rfl
@[simp] theorem State.setPixel_pix (a : Nat) (v : Pixel) (s : State) :
    (s.setPixel a v).pix = spliceCells a 1 (fun _ => some v) s.pix := rfl
@[simp] theorem State.setPixel_pixEpoch (a : Nat) (v : Pixel) (s : State) :
    (s.setPixel a v).pixEpoch = s.pixEpoch := rfl
@[simp] theorem State.setPixel_params (a : Nat) (v : Pixel) (s : State) :
    (s.setPixel a v).params = s.params := rfl
@[simp] theorem State.setPixel_events (a : Nat) (v : Pixel) (s : State) :
    (s.setPixel a v).events = s.events := rfl
@[simp] theorem State.setPixel_reply (a : Nat) (v : Pixel) (s : State) :
    (s.setPixel a v).reply = s.reply := rfl
@[simp] theorem State.setPixel_draws (a : Nat) (v : Pixel) (s : State) :
    (s.setPixel a v).draws = s.draws := rfl

@[simp] theorem raiseFault_analog (c : FaultCode) (s : State) :
    (raiseFault c s).analog = s.analog := by
  unfold raiseFault; split <;> simp_all
@[simp] theorem raiseFault_raw (c : FaultCode) (s : State) :
    (raiseFault c s).raw = s.raw := by
  unfold raiseFault; split <;> simp_all
@[simp] theorem raiseFault_hsync (c : FaultCode) (s : State) :
    (raiseFault c s).hsync = s.hsync := by
  unfold raiseFault; split <;> simp_all
@[simp] theorem raiseFault_vsync (c : FaultCode) (s : State) :
    (raiseFault c s).vsync = s.vsync := by
  unfold raiseFault; split <;> simp_all
@[simp] theorem raiseFault_cal (c : FaultCode) (s : State) :
    (raiseFault c s).cal = s.cal := by
  unfold raiseFault; split <;> simp_all
@[simp] theorem raiseFault_outw (c : FaultCode) (s : State) :
    (raiseFault c s).outw = s.outw := by
  unfold raiseFault; split <;> simp_all
@[simp] theorem raiseFault_outh (c : FaultCode) (s : State) :
    (raiseFault c s).outh = s.outh := by
  unfold raiseFault; split <;> simp_all
@[simp] theorem raiseFault_outBase (c : FaultCode) (s : State) :
    (raiseFault c s).outBase = s.outBase := by
  unfold raiseFault; split <;> simp_all
@[simp] theorem raiseFault_rng (c : FaultCode) (s : State) :
    (raiseFault c s).rng = s.rng := by
  unfold raiseFault; split <;> simp_all
@[simp] theorem raiseFault_ready (c : FaultCode) (s : State) :
    (raiseFault c s).ready = s.ready := by
  unfold raiseFault; split <;> simp_all
@[simp] theorem raiseFault_fault (c : FaultCode) (s : State) :
    (raiseFault c s).fault = true := by
  unfold raiseFault; split <;> simp_all
@[simp] theorem raiseFault_fcode (c : FaultCode) (s : State) :
    (raiseFault c s).fcode = if s.fault then s.fcode else c.number := by
  unfold raiseFault; split <;> simp_all
@[simp] theorem raiseFault_running (c : FaultCode) (s : State) :
    (raiseFault c s).running = none := by
  unfold raiseFault; split <;> simp_all
@[simp] theorem raiseFault_pix (c : FaultCode) (s : State) :
    (raiseFault c s).pix = s.pix := by
  unfold raiseFault; split <;> simp_all
@[simp] theorem raiseFault_pixEpoch (c : FaultCode) (s : State) :
    (raiseFault c s).pixEpoch = s.pixEpoch := by
  unfold raiseFault; split <;> simp_all
@[simp] theorem raiseFault_params (c : FaultCode) (s : State) :
    (raiseFault c s).params = s.params := by
  unfold raiseFault; split <;> simp_all
@[simp] theorem raiseFault_events (c : FaultCode) (s : State) :
    (raiseFault c s).events = s.events := by
  unfold raiseFault; split <;> simp_all
@[simp] theorem raiseFault_reply (c : FaultCode) (s : State) :
    (raiseFault c s).reply = s.reply := by
  unfold raiseFault; split <;> simp_all
@[simp] theorem raiseFault_draws (c : FaultCode) (s : State) :
    (raiseFault c s).draws = s.draws := by
  unfold raiseFault; split <;> simp_all

@[simp] theorem busyFault_analog (s : State) :
    (busyFault s).analog = SampleBuf.open := by simp [busyFault]
@[simp] theorem busyFault_raw (s : State) :
    (busyFault s).raw = SampleBuf.open := by simp [busyFault]
@[simp] theorem busyFault_hsync (s : State) :
    (busyFault s).hsync = Config.freeField s.draws 0 % 910 := by simp [busyFault]
@[simp] theorem busyFault_vsync (s : State) :
    (busyFault s).vsync = Config.freeField s.draws 1 % 262 := by simp [busyFault]
@[simp] theorem busyFault_cal (s : State) :
    (busyFault s).cal = freeCalibration s.draws := by simp [busyFault]
@[simp] theorem busyFault_outw (s : State) :
    (busyFault s).outw = 1 + Config.freeField s.draws 7 % s.params.maxDim := by simp [busyFault]
@[simp] theorem busyFault_outh (s : State) :
    (busyFault s).outh = 1 + Config.freeField s.draws 8 % s.params.maxDim := by simp [busyFault]
@[simp] theorem busyFault_outBase (s : State) :
    (busyFault s).outBase = BitVec.ofNat 32 (Config.freeField s.draws 9) := by simp [busyFault]
@[simp] theorem busyFault_rng (s : State) :
    (busyFault s).rng = BitVec.ofNat 32 (Config.freeField s.draws 10) := by simp [busyFault]
@[simp] theorem busyFault_ready (s : State) :
    (busyFault s).ready = s.ready := by simp [busyFault]
@[simp] theorem busyFault_fault (s : State) :
    (busyFault s).fault = true := by simp [busyFault]
@[simp] theorem busyFault_fcode (s : State) :
    (busyFault s).fcode = if s.fault then s.fcode else 5 := by
  simp [busyFault, FaultCode.number]
@[simp] theorem busyFault_running (s : State) :
    (busyFault s).running = none := by simp [busyFault]
@[simp] theorem busyFault_pix (s : State) :
    (busyFault s).pix = [] := by simp [busyFault]
@[simp] theorem busyFault_pixEpoch (s : State) :
    (busyFault s).pixEpoch = s.pixEpoch + 1 := by simp [busyFault]
@[simp] theorem busyFault_params (s : State) :
    (busyFault s).params = s.params := by simp [busyFault]
@[simp] theorem busyFault_events (s : State) :
    (busyFault s).events = s.events := by simp [busyFault]
@[simp] theorem busyFault_reply (s : State) :
    (busyFault s).reply = s.reply := by simp [busyFault]
@[simp] theorem busyFault_draws (s : State) :
    (busyFault s).draws = s.draws + 1 := by simp [busyFault]

@[simp] theorem offerPacket_analog (p : Packet) (s : State) :
    (offerPacket p s).analog = s.analog := rfl
@[simp] theorem offerPacket_raw (p : Packet) (s : State) :
    (offerPacket p s).raw = s.raw := rfl
@[simp] theorem offerPacket_hsync (p : Packet) (s : State) :
    (offerPacket p s).hsync = s.hsync := rfl
@[simp] theorem offerPacket_vsync (p : Packet) (s : State) :
    (offerPacket p s).vsync = s.vsync := rfl
@[simp] theorem offerPacket_cal (p : Packet) (s : State) :
    (offerPacket p s).cal = s.cal := rfl
@[simp] theorem offerPacket_outw (p : Packet) (s : State) :
    (offerPacket p s).outw = s.outw := rfl
@[simp] theorem offerPacket_outh (p : Packet) (s : State) :
    (offerPacket p s).outh = s.outh := rfl
@[simp] theorem offerPacket_outBase (p : Packet) (s : State) :
    (offerPacket p s).outBase = s.outBase := rfl
@[simp] theorem offerPacket_rng (p : Packet) (s : State) :
    (offerPacket p s).rng = s.rng := rfl
@[simp] theorem offerPacket_ready (p : Packet) (s : State) :
    (offerPacket p s).ready = s.ready := rfl
@[simp] theorem offerPacket_fault (p : Packet) (s : State) :
    (offerPacket p s).fault = s.fault := rfl
@[simp] theorem offerPacket_fcode (p : Packet) (s : State) :
    (offerPacket p s).fcode = s.fcode := rfl
@[simp] theorem offerPacket_running (p : Packet) (s : State) :
    (offerPacket p s).running = none := rfl
@[simp] theorem offerPacket_pix (p : Packet) (s : State) :
    (offerPacket p s).pix = s.pix := rfl
@[simp] theorem offerPacket_pixEpoch (p : Packet) (s : State) :
    (offerPacket p s).pixEpoch = s.pixEpoch := rfl
@[simp] theorem offerPacket_params (p : Packet) (s : State) :
    (offerPacket p s).params = s.params := rfl
@[simp] theorem offerPacket_events (p : Packet) (s : State) :
    (offerPacket p s).events = .command p :: s.events := rfl
@[simp] theorem offerPacket_reply (p : Packet) (s : State) :
    (offerPacket p s).reply = s.reply := rfl
@[simp] theorem offerPacket_draws (p : Packet) (s : State) :
    (offerPacket p s).draws = s.draws := rfl

@[simp] theorem storeStages_analog (r : DecodeResult) (s : State) :
    (storeStages r s).analog = s.analog := rfl
@[simp] theorem storeStages_raw (r : DecodeResult) (s : State) :
    (storeStages r s).raw = SampleBuf.ofFn r.raw := rfl
@[simp] theorem storeStages_hsync (r : DecodeResult) (s : State) :
    (storeStages r s).hsync = r.hsync := rfl
@[simp] theorem storeStages_vsync (r : DecodeResult) (s : State) :
    (storeStages r s).vsync = r.vsync := rfl
@[simp] theorem storeStages_cal (r : DecodeResult) (s : State) :
    (storeStages r s).cal = s.cal := rfl
@[simp] theorem storeStages_outw (r : DecodeResult) (s : State) :
    (storeStages r s).outw = s.outw := rfl
@[simp] theorem storeStages_outh (r : DecodeResult) (s : State) :
    (storeStages r s).outh = s.outh := rfl
@[simp] theorem storeStages_outBase (r : DecodeResult) (s : State) :
    (storeStages r s).outBase = s.outBase := rfl
@[simp] theorem storeStages_rng (r : DecodeResult) (s : State) :
    (storeStages r s).rng = r.rng := rfl
@[simp] theorem storeStages_ready (r : DecodeResult) (s : State) :
    (storeStages r s).ready = s.ready := rfl
@[simp] theorem storeStages_fault (r : DecodeResult) (s : State) :
    (storeStages r s).fault = s.fault := rfl
@[simp] theorem storeStages_fcode (r : DecodeResult) (s : State) :
    (storeStages r s).fcode = s.fcode := rfl
@[simp] theorem storeStages_running (r : DecodeResult) (s : State) :
    (storeStages r s).running = s.running := rfl
@[simp] theorem storeStages_pix (r : DecodeResult) (s : State) :
    (storeStages r s).pix = s.pix := rfl
@[simp] theorem storeStages_pixEpoch (r : DecodeResult) (s : State) :
    (storeStages r s).pixEpoch = s.pixEpoch := rfl
@[simp] theorem storeStages_params (r : DecodeResult) (s : State) :
    (storeStages r s).params = s.params := rfl
@[simp] theorem storeStages_events (r : DecodeResult) (s : State) :
    (storeStages r s).events = s.events := rfl
@[simp] theorem storeStages_reply (r : DecodeResult) (s : State) :
    (storeStages r s).reply = s.reply := rfl
@[simp] theorem storeStages_draws (r : DecodeResult) (s : State) :
    (storeStages r s).draws = s.draws + 1 := rfl

@[simp] theorem remap_analog (m : List PixRegion) (s : State) :
    (remap m s).analog = s.analog := rfl
@[simp] theorem remap_raw (m : List PixRegion) (s : State) :
    (remap m s).raw = s.raw := rfl
@[simp] theorem remap_hsync (m : List PixRegion) (s : State) :
    (remap m s).hsync = s.hsync := rfl
@[simp] theorem remap_vsync (m : List PixRegion) (s : State) :
    (remap m s).vsync = s.vsync := rfl
@[simp] theorem remap_cal (m : List PixRegion) (s : State) :
    (remap m s).cal = s.cal := rfl
@[simp] theorem remap_outw (m : List PixRegion) (s : State) :
    (remap m s).outw = s.outw := rfl
@[simp] theorem remap_outh (m : List PixRegion) (s : State) :
    (remap m s).outh = s.outh := rfl
@[simp] theorem remap_outBase (m : List PixRegion) (s : State) :
    (remap m s).outBase = s.outBase := rfl
@[simp] theorem remap_rng (m : List PixRegion) (s : State) :
    (remap m s).rng = s.rng := rfl
@[simp] theorem remap_ready (m : List PixRegion) (s : State) :
    (remap m s).ready = s.ready := rfl
@[simp] theorem remap_fault (m : List PixRegion) (s : State) :
    (remap m s).fault = s.fault := rfl
@[simp] theorem remap_fcode (m : List PixRegion) (s : State) :
    (remap m s).fcode = s.fcode := rfl
@[simp] theorem remap_running (m : List PixRegion) (s : State) :
    (remap m s).running = s.running.map fun r => { r with maps := s.params.pixmem :: r.maps } := rfl
@[simp] theorem remap_pix (m : List PixRegion) (s : State) :
    (remap m s).pix = s.pix := rfl
@[simp] theorem remap_pixEpoch (m : List PixRegion) (s : State) :
    (remap m s).pixEpoch = s.pixEpoch := rfl
@[simp] theorem remap_params (m : List PixRegion) (s : State) :
    (remap m s).params = { s.params with pixmem := m } := rfl
@[simp] theorem remap_events (m : List PixRegion) (s : State) :
    (remap m s).events = s.events := rfl
@[simp] theorem remap_reply (m : List PixRegion) (s : State) :
    (remap m s).reply = s.reply := rfl
@[simp] theorem remap_draws (m : List PixRegion) (s : State) :
    (remap m s).draws = s.draws := rfl

@[simp] theorem busy_eq_false {s : State} : s.busy = false ↔ s.running = none := by
  simp [State.busy]

@[simp] theorem busy_eq_true {s : State} : s.busy = true ↔ s.running ≠ none := by
  simp [State.busy, Option.isSome_iff_ne_none]

end Sys2Proof.Machine
end

