-- ==== Sys2Proof/Laws/Memory.lean ====
section
/-! SUPPORT. Laws of host pixel memory: read after write, the frame of a write, what a DECODE and power-on
reset leave in each cell, what the host reads from it, and that every operation keeps the canonical form. -/

namespace Sys2Proof.Machine

theorem mappedIn_lt {m : List PixRegion} {a : Nat} (h : mappedIn m a = true) : a < 2 ^ 32 := by
  simp only [mappedIn, Bool.and_eq_true, decide_eq_true_eq] at h
  exact h.1

/-- Read after write: the written cell holds the value, every other cell what it held. -/
theorem State.pixel_setPixel (s : State) (a : Nat) (v : Pixel) (b : Nat) :
    (s.setPixel a v).pixel b = if b = a then v else s.pixel b := by
  simp only [State.pixel, State.setPixel_pix, State.setPixel_pixEpoch, findCell_splice]
  by_cases h : b = a
  · subst h; simp
  · have : ¬ (a ≤ b ∧ b < a + 1) := by omega
    rw [if_neg this, if_neg h]

theorem Memory.nil_wf : Memory.wf [] := by simp [Memory.wf]

theorem Memory.splice_wf {m : List (Nat × Pixel)} (hm : Memory.wf m) {base n : Nat} {f : Nat → Option Pixel}
    (h : ∀ i < n, ∀ v, f i = some v → base + i < 2 ^ 32) : Memory.wf (spliceCells base n f m) := by
  refine ⟨sorted_splice _ _ _ hm.1, fun c hc => ?_⟩
  rcases mem_splice hc with ⟨hc, -⟩ | ⟨i, hi, hc, hv⟩
  · exact hm.2 c hc
  · exact hc ▸ h i hi _ hv

theorem State.setPixel_wf {s : State} (hs : Memory.wf s.pix) {a : Nat} (ha : a < 2 ^ 32) (v : Pixel) :
    Memory.wf (s.setPixel a v).pix :=
  Memory.splice_wf hs fun i hi _ _ => by
    have : i = 0 := by omega
    subst this; exact ha

/-- What a DECODE leaves listed at address `a`: the new value in a cell of the output buffer it wrote, the old entry
everywhere else. -/
theorem findCell_writeOutput (s : State) (wrote : Nat → Bool) (cell : Nat → Pixel) (a : Nat) :
    findCell (writeOutput s wrote cell) a
      = if s.outStart ≤ a ∧ a < s.outStart + s.outCells ∧ wrote (a - s.outStart) = true
        then some (cell (a - s.outStart)) else findCell s.pix a := by
  unfold writeOutput
  rw [findCell_splice]
  by_cases h : s.outStart ≤ a ∧ a < s.outStart + s.outCells
  · have e : s.outStart + (a - s.outStart) = a := by omega
    rw [if_pos h]
    by_cases hw : wrote (a - s.outStart) = true
    · rw [if_pos hw, if_pos ⟨h.1, h.2, hw⟩]
    · rw [if_neg hw, if_neg (fun x => hw x.2.2), e]
  · rw [if_neg h, if_neg (fun x => h ⟨x.1, x.2.1⟩)]

theorem writeOutput_wf {s : State} (hs : Memory.wf s.pix) {wrote : Nat → Bool} {cell : Nat → Pixel}
    (h : ∀ i < s.outCells, wrote i = true → s.outStart + i < 2 ^ 32) : Memory.wf (writeOutput s wrote cell) := by
  refine Memory.splice_wf hs fun i hi v hv => ?_
  by_cases hw : wrote i = true
  · exact h i hi hw
  · rw [if_neg hw] at hv
    exact hs.2 _ (mem_of_findCell hv)

theorem outputMapped_iff (acc : PixAccess) (s : State) :
    outputMapped acc s = true ↔ ∀ i < s.outCells, acc.mapped i (s.outStart + i) = true := by
  simp [outputMapped]

theorem fieldMapped_iff (acc : PixAccess) (image w h : Nat) (c f : Bool) :
    fieldMapped acc image w h c f = true ↔ ∀ k < bufLen, (fieldSample acc image w h c f k).isSome = true := by
  unfold fieldMapped
  generalize bufLen = n
  simp

@[simp] theorem quietAccess_mapped (s : State) (n a : Nat) : (quietAccess s).mapped n a = s.mapped a := rfl
@[simp] theorem quietAccess_value (s : State) (n a : Nat) : (quietAccess s).value n a = s.pixel a := rfl
@[simp] theorem quietAccess_keeps (s : State) (n a : Nat) : (quietAccess s).keeps n a = false := rfl

/-- An access of a quiet command reads the cell, or is F_MEM (R67). -/
theorem quietAccess_read (s : State) (n a : Nat) :
    (quietAccess s).read n a = if s.mapped a then some (s.pixel a) else none := rfl

theorem mappedInSome_iff {maps : List (List PixRegion)} {a : Nat} :
    mappedInSome maps a = true ↔ ∃ m ∈ maps, mappedIn m a = true := by simp [mappedInSome]

theorem mappedInSome_lt {maps : List (List PixRegion)} {a : Nat} (h : mappedInSome maps a = true) : a < 2 ^ 32 := by
  obtain ⟨m, -, hm⟩ := mappedInSome_iff.1 h
  exact mappedIn_lt hm

/-- What power-on reset leaves listed at address `a`: the old entry, or the value of the DECODE in progress in a cell of its
output buffer that a map since it began has (R322). -/
theorem findCell_pixAfterPowerOn (s : State) (a : Nat) :
    findCell (pixAfterPowerOn s) a = findCell s.pix a
    ∨ ∃ n writes maps, s.running = some ⟨.decode n, writes, maps⟩
      ∧ s.outStart ≤ a ∧ a < s.outStart + s.outCells ∧ mappedInSome (s.params.pixmem :: maps) a = true
      ∧ findCell (pixAfterPowerOn s) a = some ((decodeStages n s).cell (a - s.outStart)) := by
  unfold pixAfterPowerOn
  split
  · next n writes maps hr =>
    rw [findCell_writeOutput]
    split
    · next h =>
      obtain ⟨h₁, h₂, hw⟩ := h
      have e : s.outStart + (a - s.outStart) = a := by omega
      rw [e, Bool.and_eq_true] at hw
      exact .inr ⟨n, writes, maps, hr, h₁, h₂, hw.1, rfl⟩
    · exact .inl rfl
  · exact .inl rfl

/-- With no DECODE in progress power-on reset leaves pixel memory alone (R39). -/
theorem pixAfterPowerOn_no_decode {s : State} (h : ∀ r n, s.running = some r → r.instr ≠ .decode n) :
    pixAfterPowerOn s = s.pix := by
  unfold pixAfterPowerOn
  split
  · next n writes maps hr => exact absurd rfl (h _ n hr)
  · rfl

theorem pixAfterPowerOn_wf {s : State} (hs : Memory.wf s.pix) : Memory.wf (pixAfterPowerOn s) := by
  unfold pixAfterPowerOn
  split
  · refine writeOutput_wf hs fun i _ hw => ?_
    rw [Bool.and_eq_true] at hw
    exact mappedInSome_lt hw.1
  · exact hs

/-- What the host reads from a mapped pixel cell: the cell, or in the output buffer of a DECODE in progress possibly the value
it writes there (R332). -/
theorem pixelSeen_cases {s : State} {a : Nat} (h : s.mapped a = true) :
    pixelSeen s a = s.pixel a
    ∨ ∃ n writes maps, s.running = some ⟨.decode n, writes, maps⟩
      ∧ s.outStart ≤ a ∧ a < s.outStart + s.outCells ∧ pixelSeen s a = (decodeStages n s).cell (a - s.outStart) := by
  have e : pixelSeen s a = match pendingPixel s a with
      | none => s.pixel a
      | some v => if Config.freeChoice s.draws a then v else s.pixel a := by
    unfold pixelSeen
    rw [h]
    rfl
  rw [e]
  cases hp : pendingPixel s a with
  | none => exact .inl rfl
  | some v =>
    dsimp only
    split
    · right
      unfold pendingPixel at hp
      split at hp
      · next n writes maps hr =>
        split at hp
        · next hin => exact ⟨n, writes, maps, hr, hin.1, hin.2, (Option.some.inj hp).symm⟩
        · cases hp
      · cases hp
    · exact .inl rfl

/-- The stages of a DECODE do not look at the host's transactions. -/
theorem decodeStages_events (n : Nat) (s : State) (es : List Event) :
    decodeStages n { s with events := es } = decodeStages n s := by
  unfold decodeStages stagesAfterNoise
  dsimp only

end Sys2Proof.Machine
end

