-- ==== Sys2Proof/Laws/Noise.lean ====
section
/-! SUPPORT. Laws of the noise stage: cell `k` is perturbed with the generator's word `k + 1`, and the generator has
stepped once per cell. -/

namespace Sys2Proof.Machine

theorem noisySample_range (noise : Nat) (r : Word) (a : Int) :
    -127 ≤ noisySample noise r a ∧ noisySample noise r a ≤ 127 :=
  ⟨le_clamp (by omega), clamp_le (by omega)⟩

theorem noiseStage_succ (noise : Nat) (analog : Nat → Int) (r : Word) (n : Nat) :
    noiseStage noise analog r (n + 1)
      = ((noiseStage noise analog r n).1.push
            (noisySample noise (nextRng (noiseStage noise analog r n).2) (analog n)),
          nextRng (noiseStage noise analog r n).2) := by
  simp [noiseStage, List.range_succ, List.foldl_append]

/-- The generator has stepped once per cell (R184). -/
theorem noiseStage_rng (noise : Nat) (analog : Nat → Int) (r : Word) (n : Nat) :
    (noiseStage noise analog r n).2 = rngAfter n r := by
  induction n with
  | zero => rfl
  | succ n ih => rw [noiseStage_succ, ih]; rfl

theorem noiseStage_size (noise : Nat) (analog : Nat → Int) (r : Word) (n : Nat) :
    (noiseStage noise analog r n).1.size = n := by
  induction n with
  | zero => rfl
  | succ n ih => rw [noiseStage_succ]; simp [ih]

/-- Cell `k` is the analog sample perturbed with the generator's word `k + 1` (R184). -/
theorem noiseStage_getD (noise : Nat) (analog : Nat → Int) (r : Word) (n : Nat) {k : Nat} (h : k < n) :
    (noiseStage noise analog r n).1.getD k 0 = noisySample noise (rngAfter (k + 1) r) (analog k) := by
  induction n with
  | zero => omega
  | succ n ih =>
    rw [noiseStage_succ]
    have hs := noiseStage_size noise analog r n
    by_cases hk : k < n
    · rw [← ih hk]
      simp [Array.getD, hs, hk, h, Array.getElem_push]
    · have : k = n := by omega
      subst this
      simp [Array.getD, hs, Array.getElem_push, noiseStage_rng, rngAfter]

end Sys2Proof.Machine
end

