-- ==== Sys2Proof/Laws/Ops.lean ====
section
/-! SUPPORT. Once for each shared operation: everything it can do. The claims cite these lemmas and do not unfold the
operations. -/

namespace Sys2Proof.Machine

/-! ### The gate -/

/-- Everything the checks before a command can find. -/
theorem verdict_cases (n : Bool) (s : State) :
    (s.fault = true ∧ verdict n s = .ignored)
    ∨ (s.fault = false ∧ s.running ≠ none ∧ verdict n s = .busy)
    ∨ (s.fault = false ∧ s.running = none ∧ n = true ∧ s.ready = false ∧ verdict n s = .notReady)
    ∨ (s.fault = false ∧ s.running = none ∧ (n = true → s.ready = true) ∧ verdict n s = .runs) := by
  unfold verdict
  cases hf : s.fault with
  | true => simp
  | false =>
    cases hb : s.busy with
    | true => simp [busy_eq_true.1 hb]
    | false => cases n <;> cases hr : s.ready <;> simp [busy_eq_false.1 hb]

/-- Everything the gate can do. -/
theorem gate_cases {n : Bool} {s : State} {body : State → State} {t : State} (h : gate n s body = .next t) :
    (s.fault = true ∧ t = s)
    ∨ (s.fault = false ∧ s.running ≠ none ∧ t = busyFault s)
    ∨ (s.fault = false ∧ s.running = none ∧ n = true ∧ s.ready = false ∧ t = raiseFault .notReady s)
    ∨ (s.fault = false ∧ s.running = none ∧ (n = true → s.ready = true) ∧ t = body s) := by
  unfold gate at h
  rcases verdict_cases n s with ⟨hf, hv⟩ | ⟨hf, hb, hv⟩ | ⟨hf, hb, hn, hr, hv⟩ | ⟨hf, hb, hr, hv⟩ <;> rw [hv] at h <;>
    have ht := (Host.Outcome.next.inj h).symm
  · exact .inl ⟨hf, ht⟩
  · exact .inr (.inl ⟨hf, hb, ht⟩)
  · exact .inr (.inr (.inl ⟨hf, hb, hn, hr, ht⟩))
  · exact .inr (.inr (.inr ⟨hf, hb, hr, ht⟩))

theorem gate_faulted {n : Bool} {s : State} {body : State → State} (hf : s.fault = true) :
    gate n s body = .next s := by simp [gate, verdict, hf]

theorem gate_busy {n : Bool} {s : State} {body : State → State} (hf : s.fault = false) (hb : s.running ≠ none) :
    gate n s body = .next (busyFault s) := by
  have : s.busy = true := busy_eq_true.2 hb
  simp [gate, verdict, hf, this]

theorem gate_notReady {s : State} {body : State → State} (hf : s.fault = false) (hb : s.running = none)
    (hr : s.ready = false) : gate true s body = .next (raiseFault .notReady s) := by
  have : s.busy = false := busy_eq_false.2 hb
  simp [gate, verdict, hf, this, hr]

/-- An idle, unfaulted block runs the command. -/
theorem gate_runs {n : Bool} {s : State} {body : State → State} (hf : s.fault = false) (hb : s.running = none)
    (hr : n = true → s.ready = true) : gate n s body = .next (body s) := by
  have : verdict n s = .runs := by
    have hs : s.busy = false := busy_eq_false.2 hb
    cases n <;> simp_all [verdict]
  unfold gate
  rw [this]

/-- The gate always answers a next state. -/
theorem gate_isNext (n : Bool) (s : State) (body : State → State) : ∃ t, gate n s body = .next t := by
  unfold gate
  cases verdict n s <;> exact ⟨_, rfl⟩

/-! ### The commands behind the gate

Rewrite `exec` with these equations before using the lemmas of the gate: a goal left to the unifier may make it evaluate a
loop over the whole buffer. -/

theorem exec_init (w h p : Nat) (s : State) :
    exec (.init w h p) s = gate false s fun s =>
      if badDims s w h then raiseFault .badGeometry s
      else createDevice (defaultCalibration (bindOutput w h p s)) := rfl

theorem exec_resize (w h p : Nat) (s : State) :
    exec (.resize w h p) s = gate true s fun s =>
      if badDims s w h then raiseFault .badGeometry s else bindOutput w h p s := rfl

theorem exec_reset (s : State) : exec .reset s = gate true s defaultCalibration := rfl

theorem exec_modulate (p w h : Nat) (c f : Bool) (s : State) :
    exec (.modulate p w h c f) s = gate true s fun s => modulateBy (quietAccess s) p w h c f s := rfl

theorem exec_decode (n : Nat) (s : State) :
    exec (.decode n) s = gate true s fun s => decodeBy (quietAccess s) n s := rfl

theorem badDims_eq_false {s : State} {w h : Nat} :
    badDims s w h = false ↔ (1 ≤ w ∧ w ≤ s.params.maxDim) ∧ 1 ≤ h ∧ h ≤ s.params.maxDim := by
  unfold badDims
  simp only [Bool.or_eq_false_iff, beq_eq_false_iff_ne, decide_eq_false_iff_not]
  omega

/-- Everything MODULATE can do behind the gate (R140, R294, R298). -/
theorem modulateBy_cases (acc : PixAccess) (image w h : Nat) (c f : Bool) (s : State) :
    (badDims s w h = true ∧ modulateBy acc image w h c f s = raiseFault .badImage s)
    ∨ (badDims s w h = false ∧ fieldMapped acc image w h c f = true
        ∧ modulateBy acc image w h c f s
          = { s with analog := SampleBuf.ofFn fun k => (fieldSample acc image w h c f k).getD 0 })
    ∨ (badDims s w h = false ∧ fieldMapped acc image w h c f = false
        ∧ modulateBy acc image w h c f s = raiseFault .mem { s with analog := SampleBuf.open }) := by
  unfold modulateBy
  cases hb : badDims s w h with
  | true => exact .inl ⟨rfl, by rw [if_pos rfl]⟩
  | false =>
    cases hm : fieldMapped acc image w h c f with
    | true => exact .inr (.inl ⟨rfl, rfl, by rw [if_neg (by decide), if_pos rfl]⟩)
    | false => exact .inr (.inr ⟨rfl, rfl, by rw [if_neg (by decide), if_neg (by decide)]⟩)

/-- Everything DECODE can do behind the gate (R180, R255, R298): the state is `storeStages`, with pixel memory written
through `writeOutput`, and F_MEM recorded iff an output cell is unmapped. -/
theorem decodeBy_cases (acc : PixAccess) (noise : Nat) (s : State) :
    (outputMapped acc s = true
      ∧ decodeBy acc noise s
        = { storeStages (decodeStages noise s) s with
            pix := writeOutput s (fun i => !acc.keeps i (s.outStart + i)) (decodeStages noise s).cell })
    ∨ (outputMapped acc s = false
      ∧ decodeBy acc noise s
        = raiseFault .mem
          { storeStages (decodeStages noise s) s with
            pix := writeOutput s
              (fun i => acc.mapped i (s.outStart + i) && !acc.keeps i (s.outStart + i)
                && Config.freeChoice s.draws i)
              (decodeStages noise s).cell }) := by
  unfold decodeBy
  cases hm : outputMapped acc s with
  | true => exact .inl ⟨rfl, by simp only [if_true]⟩
  | false => exact .inr ⟨rfl, by simp only [Bool.false_eq_true, if_false]⟩

/-! ### The stages of DECODE -/

theorem stagesAfterNoise_raw (noisy : Array Int × Word) (s : State) (k : Nat) :
    (stagesAfterNoise noisy s).raw k = noisy.1.getD k 0 := rfl

theorem stagesAfterNoise_rng (noisy : Array Int × Word) (s : State) : (stagesAfterNoise noisy s).rng = noisy.2 := rfl

/-- The new horizontal counter is that of the scan of the raw-input samples (R180, R214). -/
theorem stagesAfterNoise_hsync (noisy : Array Int × Word) (s : State) :
    (stagesAfterNoise noisy s).hsync
      = newHsync s.hsync (runScan (stagesAfterNoise noisy s).raw s.hsync s.vsync) := rfl

/-- The new vertical counter is that of the scan of the raw-input samples (R180, R215). -/
theorem stagesAfterNoise_vsync (noisy : Array Int × Word) (s : State) :
    (stagesAfterNoise noisy s).vsync
      = newVsync s.vsync (runScan (stagesAfterNoise noisy s).raw s.hsync s.vsync) := rfl

/-- The output cells are those of the demodulator on the raw-input samples and the line table of their scan (R240). -/
theorem stagesAfterNoise_cell (noisy : Array Int × Word) (s : State) :
    (stagesAfterNoise noisy s).cell
      = outputPixel (stagesAfterNoise noisy s).raw
          (lineStart s.hsync s.vsync (runScan (stagesAfterNoise noisy s).raw s.hsync s.vsync)) s.cal s.params.bloomEn
          s.outw s.outh := rfl

/-- The stages of a DECODE as a function of what the noise stage left, so that no proof evaluates the noise stage. -/
theorem decodeStages_eq (noise : Nat) (s : State) :
    ∃ noisy, decodeStages noise s = stagesAfterNoise noisy s ∧ noisy.1.size = bufLen
      ∧ noisy.2 = rngAfter bufLen s.rng
      ∧ ∀ k < bufLen, noisy.1.getD k 0 = noisySample noise (rngAfter (k + 1) s.rng) (s.analog.get s.draws k).toInt := by
  unfold decodeStages
  refine ⟨_, rfl, noiseStage_size _ _ _ _, noiseStage_rng _ _ _ _, fun k hk => ?_⟩
  rw [noiseStage_getD _ _ _ _ hk, SampleBuf.values_getD _ _ hk]

/-- Cell `k` of the raw-input buffer a DECODE writes (R184). -/
theorem decodeStages_raw (noise : Nat) (s : State) {k : Nat} (h : k < bufLen) :
    (decodeStages noise s).raw k
      = noisySample noise (rngAfter (k + 1) s.rng) (s.analog.get s.draws k).toInt := by
  obtain ⟨noisy, e, -, -, hk⟩ := decodeStages_eq noise s
  rw [e, stagesAfterNoise_raw, hk k h]

/-- Past the buffer the raw-input samples of a DECODE are 0. -/
theorem decodeStages_raw_past (noise : Nat) (s : State) {k : Nat} (h : bufLen ≤ k) : (decodeStages noise s).raw k = 0 := by
  obtain ⟨noisy, e, hs, -, -⟩ := decodeStages_eq noise s
  rw [e, stagesAfterNoise_raw]
  have : ¬ k < noisy.1.size := by omega
  simp [Array.getD, this]

/-- The generator after a DECODE (R184). -/
theorem decodeStages_rng (noise : Nat) (s : State) : (decodeStages noise s).rng = rngAfter bufLen s.rng := by
  obtain ⟨noisy, e, -, h, -⟩ := decodeStages_eq noise s
  rw [e, stagesAfterNoise_rng, h]

/-- The counters and the output cells a DECODE computes, from its raw-input samples (R180, R214, R215, R240). -/
theorem decodeStages_results (noise : Nat) (s : State) :
    let track := runScan (decodeStages noise s).raw s.hsync s.vsync
    (decodeStages noise s).hsync = newHsync s.hsync track ∧ (decodeStages noise s).vsync = newVsync s.vsync track
      ∧ (decodeStages noise s).cell
        = outputPixel (decodeStages noise s).raw (lineStart s.hsync s.vsync track) s.cal s.params.bloomEn s.outw s.outh := by
  obtain ⟨noisy, e, -, -, -⟩ := decodeStages_eq noise s
  rw [e]
  exact ⟨stagesAfterNoise_hsync noisy s, stagesAfterNoise_vsync noisy s, stagesAfterNoise_cell noisy s⟩

/-! ### The write transactions -/

/-- Everything a register write can do (R36, R297, R299, R300). -/
theorem regWrite_cases (i : Nat) (v : Word) (s : State) :
    (s.fault = true ∧ regWrite i v s = s)
    ∨ (s.fault = false ∧ s.running ≠ none ∧ regWrite i v s = busyFault s)
    ∨ (s.fault = false ∧ s.running = none ∧ writableReg i = false ∧ regWrite i v s = s)
    ∨ (s.fault = false ∧ s.running = none ∧ writableReg i = true ∧ s.ready = false
        ∧ regWrite i v s = raiseFault .notReady s)
    ∨ (s.fault = false ∧ s.running = none ∧ writableReg i = true ∧ s.ready = true
        ∧ regWrite i v s = { s with cal := writeCalibration s.cal i v }) := by
  unfold regWrite
  cases hf : s.fault with
  | true => simp
  | false =>
    cases hb : s.busy with
    | true => simp_all
    | false => cases hw : writableReg i <;> cases hr : s.ready <;> simp_all

/-- Everything a sample-port write can do (R64, R297, R299, R300, R301). -/
theorem anaWrite_cases (k : Nat) (v : Sample) (s : State) :
    (s.fault = true ∧ anaWrite k v s = s)
    ∨ (s.fault = false ∧ s.running ≠ none ∧ anaWrite k v s = busyFault s)
    ∨ (s.fault = false ∧ s.running = none ∧ s.ready = false ∧ anaWrite k v s = raiseFault .notReady s)
    ∨ (s.fault = false ∧ s.running = none ∧ s.ready = true ∧ bufLen ≤ k
        ∧ anaWrite k v s = raiseFault .badIndex s)
    ∨ (s.fault = false ∧ s.running = none ∧ s.ready = true ∧ k < bufLen
        ∧ anaWrite k v s = { s with analog := s.analog.set k v }) := by
  unfold anaWrite
  cases hf : s.fault with
  | true => simp
  | false =>
    cases hb : s.busy with
    | true => simp_all
    | false =>
      cases hr : s.ready with
      | false => simp_all
      | true =>
        by_cases hk : bufLen ≤ k
        · simp [hk, busy_eq_false.1 hb]
        · simp [hk, busy_eq_false.1 hb, Nat.lt_of_not_le hk]

/-! ### Packets -/

/-- Everything a packet's arrival can do (R120, R292, R297, R300). -/
theorem onPacket_cases (p : Packet) (s : State) (go : Instr → State → Out) :
    (s.fault = true ∧ onPacket p s go = .next s)
    ∨ (s.fault = false ∧ s.running ≠ none ∧ onPacket p s go = .next (busyFault s))
    ∨ (s.fault = false ∧ s.running = none ∧ (∃ why, decode p = .illegal why)
        ∧ onPacket p s go = .next (raiseFault .illegalCmd s))
    ∨ (s.fault = false ∧ s.running = none ∧ ∃ i, decode p = .command i ∧ onPacket p s go = go i s) := by
  unfold onPacket
  cases hf : s.fault with
  | true => simp
  | false =>
    cases hb : s.busy with
    | true => simp_all
    | false =>
      have hr := busy_eq_false.1 hb
      cases hd : decode p <;> simp [hr]

end Sys2Proof.Machine
end

