-- ==== Sys2Proof/Laws/Commands.lean ====
section
/-! SUPPORT. What MODULATE and DECODE do on an undisturbed block, in the terms the claims use: when every access is mapped,
what the next state is, and that the stored raw-input buffer reads back as the samples the stages computed. -/

namespace Sys2Proof.Machine

/-- `n` steps of the generator as an iterate (R183). -/
theorem rngAfter_eq_iterate (n : Nat) (r : Word) : rngAfter n r = (fun r : Word => 214019 * r + 140327895)^[n] r := by
  induction n with
  | zero => rfl
  | succ n ih => rw [Function.iterate_succ_apply', ← ih]; rfl

theorem outputMapped_quiet {s : State} : outputMapped (quietAccess s) s = true ↔ OutputMapped s := by
  rw [outputMapped_iff]; rfl

/-- Line and offset of active sample `x` of picture row `y` (R21). -/
theorem active_cell {x y : Nat} (hx : x < 752) (hy : y < 240) :
    910 * (21 + y) + (156 + x) < bufLen ∧ (910 * (21 + y) + (156 + x)) / hres = 21 + y
      ∧ (910 * (21 + y) + (156 + x)) % hres = 156 + x ∧ inPicture (21 + y) (156 + x) = true := by
  refine ⟨by rw [bufLen_eq]; omega, by simp only [hres]; omega, by simp only [hres]; omega, ?_⟩
  simp [inPicture, top, nlines, avBeg, avLen]; omega

/-- The source address of an active sample (R148). -/
theorem sourceAddr_active (p w h : Nat) (f : Bool) {x y : Nat} (hx : x < 752) (hy : y < 240) :
    sourceAddr p w h f (910 * (21 + y) + (156 + x))
      = p + min (h - 1) ((2 * y + f.toNat) * h / 480) * w + x * w / 752 := by
  obtain ⟨-, d₁, d₂, -⟩ := active_cell hx hy
  unfold sourceAddr
  rw [d₁, d₂]
  simp only [imageCell, sourceColumn, sourceRow, top, avBeg, avLen]
  rw [show 21 + y - 21 = y by omega, show 156 + x - 156 = x by omega]

/-- On a block the host leaves alone MODULATE finds every access mapped iff the source frame is (R298). -/
theorem fieldMapped_quiet {s : State} {p w h : Nat} {c f : Bool} :
    fieldMapped (quietAccess s) p w h c f = true ↔ SourceMapped s p w h f := by
  rw [fieldMapped_iff]
  constructor
  · intro H x hx y hy
    obtain ⟨hk, d₁, d₂, hin⟩ := active_cell hx hy
    have := H _ hk
    unfold fieldSample at this
    rw [d₁, d₂, hin, if_pos rfl, sourceAddr_active p w h f hx hy] at this
    rw [Option.isSome_map, quietAccess_read] at this
    by_contra hn
    rw [if_neg hn] at this
    cases this
  · intro H k hk
    unfold fieldSample
    split
    · next hin =>
      have hin' := hin
      simp only [inPicture, top, nlines, avBeg, avLen, Bool.and_eq_true, decide_eq_true_eq] at hin'
      have hm := H (k % hres - 156) (by omega) (k / hres - 21) (by omega)
      have he : sourceAddr p w h f k
          = p + min (h - 1) ((2 * (k / hres - 21) + f.toNat) * h / 480) * w + (k % hres - 156) * w / 752 := rfl
      rw [Option.isSome_map, quietAccess_read, he, if_pos hm]
      rfl
    · rfl

/-- The next state of a MODULATE that passes its checks with every source cell mapped (R140). -/
theorem exec_modulate_mapped {s : State} {p w h : Nat} {c f : Bool} (hs : DeviceReady s) (hg : GoodDims s w h)
    (hm : SourceMapped s p w h f) :
    exec (.modulate p w h c f) s
      = .next { s with analog := SampleBuf.ofFn fun k => (fieldSample (quietAccess s) p w h c f k).getD 0 } := by
  obtain ⟨hf, hr, hd⟩ := hs
  rw [exec_modulate, gate_runs hf hr (fun _ => hd)]
  rcases modulateBy_cases (quietAccess s) p w h c f s with ⟨h', -⟩ | ⟨-, -, e⟩ | ⟨-, h', -⟩
  · rw [badDims_eq_false.2 hg] at h'; cases h'
  · rw [e]
  · rw [fieldMapped_quiet.2 hm] at h'; cases h'

/-- A DECODE on an idle, unfaulted, ready block is `decodeBy` (R180). -/
theorem exec_decode_ready {s : State} (hs : DeviceReady s) (n : Nat) :
    exec (.decode n) s = .next (decodeBy (quietAccess s) n s) := by
  obtain ⟨hf, hr, hd⟩ := hs
  rw [exec_decode, gate_runs hf hr (fun _ => hd)]

/-- The range of a template sample (R146). -/
theorem templateSample_range (n t : Nat) (c f : Bool) : -40 ≤ templateSample n t c f ∧ templateSample n t c f ≤ 20 := by
  unfold templateSample burstSample
  have := cos4_cases (theta (hres * n + t) f)
  simp only [blank, burstAmp, syncTip]
  repeat' split
  all_goals omega

/-- The range of an active sample (R152). -/
theorem activeSample_range (p : Pixel) (c : Bool) (th : Nat) : -20 ≤ activeSample p c th ∧ activeSample p c th ≤ 127 := by
  unfold activeSample
  exact ⟨le_clamp (by decide), clamp_le (by decide)⟩

/-- A raw-input buffer a DECODE stored reads back as the samples its stages computed (R62). -/
theorem rawSignal_of_raw {n : Nat} {s t : State} (h : t.raw = SampleBuf.ofFn (decodeStages n s).raw) :
    rawSignal t = (decodeStages n s).raw := by
  funext k
  unfold rawSignal
  rw [h]
  by_cases hk : k < bufLen
  · have hr := noisySample_range n (rngAfter (k + 1) s.rng) (s.analog.get s.draws k).toInt
    rw [← decodeStages_raw n s hk] at hr
    exact SampleBuf.get_ofFn_toInt _ _ hk (by omega) (by omega)
  · rw [decodeStages_raw_past n s (by omega)]
    have hn : findCell (SampleBuf.ofFn (decodeStages n s).raw).cells k = none := by
      apply findCell_eq_none
      intro c hc
      have := (SampleBuf.mem_ofFn hc).1
      omega
    unfold SampleBuf.get
    rw [hn, SampleBuf.ofFn_fill]
    rfl

end Sys2Proof.Machine
end

