-- ==== Sys2Proof/Laws/Decode.lean ====
section
/-! SUPPORT. Laws of the packet's fields: what the head word of each opcode holds, and that operands survive their word. -/

namespace Sys2Proof

/-- The fields of a head word written with opcode `op` below 256 and the two flags (R91). -/
theorem headWord_fields {op : Nat} (h : op < 256) (c f : Bool) (a b p : Word) :
    (Packet.mk (headWord op c f) a b p).op = op ∧ (Packet.mk (headWord op c f) a b p).flagC = c
      ∧ (Packet.mk (headWord op c f) a b p).flagF = f ∧ (Packet.mk (headWord op c f) a b p).reserved = 0 := by
  have key : ∀ (n : Fin 256) (c f : Bool), ((headWord n c f).extractLsb' 0 8).toNat = n ∧ (headWord n c f).getLsbD 8 = c
      ∧ (headWord n c f).getLsbD 9 = f ∧ ((headWord n c f).extractLsb' 10 22).toNat = 0 := by decide +kernel
  exact key ⟨op, h⟩ c f

theorem fitsWord_iff {v : Nat} : fitsWord v = true ↔ v < 2 ^ 32 := by simp [fitsWord]

/-- An operand that fits its word is read back as it was written (R92). -/
theorem operand_roundtrip {v : Nat} (h : fitsWord v = true) : (BitVec.ofNat 32 v).toNat = v := by
  rw [BitVec.toNat_ofNat]
  exact Nat.mod_eq_of_lt (fitsWord_iff.1 h)

/-- Every command the decoder yields has operands that fit their words. -/
theorem decode_wellFormed {p : Packet} {i : Instr} (h : decode p = .command i) : i.wellFormed = true := by
  have hA : fitsWord p.operandA = true := fitsWord_iff.2 p.w1.isLt
  have hB : fitsWord p.operandB = true := fitsWord_iff.2 p.w2.isLt
  have hP : fitsWord p.operandP = true := fitsWord_iff.2 p.w3.isLt
  unfold decode at h
  repeat' split at h
  all_goals cases h
  all_goals simp [Instr.wellFormed, hA, hB, hP]

end Sys2Proof
end

