-- ==== Sys2Proof/Laws/PerInstr.lean ====
section
/-! SUPPORT. Facts stated instruction by instruction: the head word each command is encoded with is the one its row of
the opcode map matches (R93). -/

namespace Sys2Proof.Laws.MatchesItsRow

/-- `W0 match` of the command's row of R93. -/
def rowMatch : Instr → Word
  | .init _ _ _ => 0x00000001
  | .resize _ _ _ => 0x00000002
  | .reset => 0x00000003
  | .modulate _ _ _ _ _ => 0x00000004
  | .decode _ => 0x00000005

/-- `W0 mask` of the command's row of R93. -/
def rowMask : Instr → Word
  | .init _ _ _ => 0xFFFFFFFF
  | .resize _ _ _ => 0xFFFFFFFF
  | .reset => 0xFFFFFFFF
  | .modulate _ _ _ _ _ => 0xFFFFFCFF
  | .decode _ => 0xFFFFFFFF

/-- The encoded head word selects the command's own row of the opcode map (R93). -/
def Statement (i : Instr) : Prop := (encode i).w0 &&& rowMask i = rowMatch i

theorem init (w h p : Nat) : Statement (.init w h p) := by
  show headWord 0x01 false false &&& (0xFFFFFFFF : Word) = 0x00000001; decide

theorem resize (w h p : Nat) : Statement (.resize w h p) := by
  show headWord 0x02 false false &&& (0xFFFFFFFF : Word) = 0x00000002; decide

theorem reset : Statement .reset := by
  show headWord 0x03 false false &&& (0xFFFFFFFF : Word) = 0x00000003; decide

theorem modulate (p w h : Nat) (c f : Bool) : Statement (.modulate p w h c f) := by
  show headWord 0x04 c f &&& (0xFFFFFCFF : Word) = 0x00000004
  revert c f; decide

theorem decode (n : Nat) : Statement (.decode n) := by
  show headWord 0x05 false false &&& (0xFFFFFFFF : Word) = 0x00000005; decide

end Sys2Proof.Laws.MatchesItsRow
end

