-- ==== Sys2Proof/Machine/TextForm.lean ====
section
/-! DEFINITION. The textual form of commands and of the three host directives (R98): from a line of text to the transaction
it stands for. Nothing of the machine depends on it. -/

namespace Sys2Proof.Machine

/-- The value of a digit in base 16; a digit of 10 or more is none of a decimal number. -/
def digitValue (c : Char) : Option Nat :=
  if '0' ≤ c ∧ c ≤ '9' then some (c.toNat - 48)
  else if 'a' ≤ c ∧ c ≤ 'f' then some (c.toNat - 87)
  else if 'A' ≤ c ∧ c ≤ 'F' then some (c.toNat - 55)
  else none

/-- The number the digits `cs` continue, in the given base. -/
def readDigits (base : Nat) : List Char → Nat → Option Nat
  | [], n => some n
  | c :: cs, n =>
    match digitValue c with
    | some d => if d < base then readDigits base cs (base * n + d) else none
    | none => none

/-- An unsigned number, decimal or `0x` hexadecimal. -/
def readUnsigned : List Char → Option Nat
  | [] => none
  | ['0', 'x'] => none
  | '0' :: 'x' :: cs => readDigits 16 cs 0
  | cs => readDigits 10 cs 0

/-- A number with an optional minus sign, as the sample of `anawrite` may have one (DEDUCED from V73; log 22). -/
def readNumber : List Char → Option Int
  | '-' :: cs => (readUnsigned cs).map fun n => -(n : Int)
  | '−' :: cs => (readUnsigned cs).map fun n => -(n : Int)
  | cs => (readUnsigned cs).map fun n => (n : Int)

/-- The text without the spaces before and after it. -/
def trimSpaces (cs : List Char) : List Char :=
  ((cs.dropWhile (· == ' ')).reverse.dropWhile (· == ' ')).reverse

/-- The pieces of a text between commas. -/
def splitCommas : List Char → List (List Char)
  | [] => [[]]
  | c :: cs =>
    match splitCommas cs with
    | [] => [[c]]
    | piece :: rest => if c = ',' then [] :: piece :: rest else (c :: piece) :: rest

/-- The operands of a line: none, or numbers separated by commas. -/
def readOperands (cs : List Char) : Option (List Int) :=
  if (trimSpaces cs).isEmpty then some [] else (splitCommas cs).mapM fun piece => readNumber (trimSpaces piece)

/-- A command by its mnemonic in lower case and its operands in the document's order; the two flags are 0 or 1. -/
def readCommand (name : List Char) (operands : List Nat) : Option Instr :=
  match operands with
  | [] => if name = ['r', 'e', 's', 'e', 't'] then some .reset else none
  | [n] => if name = ['d', 'e', 'c', 'o', 'd', 'e'] then some (.decode n) else none
  | [w, h, p] =>
    if name = ['i', 'n', 'i', 't'] then some (.init w h p)
    else if name = ['r', 'e', 's', 'i', 'z', 'e'] then some (.resize w h p)
    else none
  | [p, w, h, c, f] =>
    if name = ['m', 'o', 'd', 'u', 'l', 'a', 't', 'e'] ∧ c ≤ 1 ∧ f ≤ 1 then some (.modulate p w h (c == 1) (f == 1)) else none
  | _ => none

/-- A host directive, which is no command (R98); a value its port cannot carry makes no transaction. -/
def readDirective (name : List Char) (operands : List Int) : Option Event :=
  match operands with
  | [i] => if name = ['r', 'e', 'g', 'r', 'e', 'a', 'd'] ∧ 0 ≤ i then some (.regRead i.toNat) else none
  | [i, v] =>
    if name = ['r', 'e', 'g', 'w', 'r', 'i', 't', 'e'] ∧ 0 ≤ i ∧ 0 ≤ v ∧ v < 2 ^ 32 then
      some (.regWrite i.toNat (BitVec.ofInt 32 v))
    else if name = ['a', 'n', 'a', 'w', 'r', 'i', 't', 'e'] ∧ 0 ≤ i ∧ -128 ≤ v ∧ v ≤ 127 then
      some (.anaWrite i.toNat (BitVec.ofInt 8 v))
    else none
  | _ => none

/-- The command of a line, if it is one: its operands are unsigned and fit their words (R92). -/
def commandOf (name : List Char) (operands : List Int) : Option Instr :=
  if operands.all fun v => 0 ≤ v then
    (readCommand name (operands.map Int.toNat)).filter Instr.wellFormed
  else none

/-- The transaction a line of text stands for: the packet of a command, with its ignored words 0, or a host directive
(R98). -/
def assemble (line : List Char) : Option Event :=
  let line := trimSpaces line
  let name := line.takeWhile (· != ' ')
  match readOperands (line.dropWhile (· != ' ')) with
  | none => none
  | some operands =>
    match commandOf name operands with
    | some i => some (.command (encode i))
    | none => readDirective name operands

end Sys2Proof.Machine
end

