-- ==== Sys2Proof/Tests/Slice0.lean ====
section
/-! SUPPORT. The model's own tests: ill-formed commands, the spec's packets, small checks of each command against
spec/95_test_vectors.md, and for each statement with hypotheses a state and operands that meet them. -/

namespace Sys2Proof.Tests

open Sys2Proof.Machine

/-! ### Ill-formed commands (R91, R92): one for each check -/

theorem test_wf_init_width : Instr.wellFormed (.init 4294967296 1 0) = false := by decide
theorem test_wf_init_height : Instr.wellFormed (.init 1 4294967296 0) = false := by decide
theorem test_wf_init_buffer : Instr.wellFormed (.init 1 1 4294967296) = false := by decide
theorem test_wf_resize_width : Instr.wellFormed (.resize 4294967296 1 0) = false := by decide
theorem test_wf_resize_height : Instr.wellFormed (.resize 1 4294967296 0) = false := by decide
theorem test_wf_resize_buffer : Instr.wellFormed (.resize 1 1 4294967296) = false := by decide
theorem test_wf_modulate_image : Instr.wellFormed (.modulate 4294967296 1 1 true true) = false := by decide
theorem test_wf_modulate_width : Instr.wellFormed (.modulate 0 4294967296 1 true true) = false := by decide
theorem test_wf_modulate_height : Instr.wellFormed (.modulate 0 1 4294967296 true true) = false := by decide
theorem test_wf_decode_noise : Instr.wellFormed (.decode 4294967296) = false := by decide

/-! ### The packets V1 to V14, and the bits of a table row -/

theorem test_decode_V1 : decode ⟨0x00000001, 4, 3, 100⟩ = .command (.init 4 3 100) := by decide
theorem test_decode_V2 : decode ⟨0x00000002, 2, 1, 200⟩ = .command (.resize 2 1 200) := by decide
theorem test_decode_V3 : decode ⟨0x00000003, 0xDEAD, 0xBEEF, 7⟩ = .command .reset := by decide
theorem test_decode_V4 : decode ⟨0x00000104, 2, 2, 0x2000⟩ = .command (.modulate 0x2000 2 2 true false) := by decide
theorem test_decode_V5 : decode ⟨0x00000304, 2, 2, 0x2000⟩ = .command (.modulate 0x2000 2 2 true true) := by decide
theorem test_decode_V6 : decode ⟨0x00000004, 2, 2, 0x2000⟩ = .command (.modulate 0x2000 2 2 false false) := by decide
theorem test_decode_V7 : decode ⟨0x00000204, 2, 2, 0x2000⟩ = .command (.modulate 0x2000 2 2 false true) := by decide
theorem test_decode_V8 : decode ⟨0x00000005, 64, 9, 9⟩ = .command (.decode 64) := by decide
theorem test_decode_V9 : decode ⟨0x00000000, 0, 0, 0⟩ = .illegal .unknownOpcode := by decide
theorem test_decode_V10 : decode ⟨0x00000006, 0, 0, 0⟩ = .illegal .unknownOpcode := by decide
theorem test_decode_V11 : decode ⟨0x00000105, 0, 0, 0⟩ = .illegal .strayFlag := by decide
theorem test_decode_V12 : decode ⟨0x00000404, 2, 2, 0⟩ = .illegal .reservedBits := by decide
theorem test_decode_V13 : decode ⟨0x80000001, 4, 3, 100⟩ = .illegal .reservedBits := by decide
theorem test_decode_V14 : decode ⟨0x000000FF, 0, 0, 0⟩ = .illegal .unknownOpcode := by decide

/-- W0 = 0x104, W1 = 2, W2 = 3, W3 = 0x2000 as one 128-bit pattern (R91). -/
theorem test_table_word :
    decodeTableWord 128 0x00002000000000030000000200000104 = some (.modulate 0x2000 2 3 true false) := by decide

/-- The example of R98, and a directive of V73. -/
theorem test_text_form :
    assemble "modulate 0x2000, 2, 2, 1, 0".toList = some (.command ⟨0x00000104, 2, 2, 0x2000⟩)
      ∧ assemble "anawrite 238419, -128".toList = some (.anaWrite 238419 0x80) := by decide +kernel

/-- An operand that does not fit its word, and a missing operand, assemble to nothing (R92, R98). -/
theorem test_text_refused :
    assemble "decode 4294967296".toList = none ∧ assemble "init 4, 3".toList = none := by decide +kernel

/-! ### Small states -/

/-- A ready, idle block after `init 1, 1, 0`, without its generator value. -/
def ready : State := { State.reset with analog := SampleBuf.zeros, ready := true }

/-- A ready, idle block about to take one transaction. -/
def readyAt (e : Event) : State := { ready with events := [e] }

/-- A block as power-on reset leaves it, about to take one transaction. -/
def coldAt (e : Event) : State := { State.reset with events := [e] }

/-- A ready block with no mapped pixel address. -/
def unmapped : State := { ready with params := { Params.default with pixmem := [] } }

/-- A block that has recorded F_ILLEGAL_CMD, about to take one transaction. -/
def faultedAt (e : Event) : State := { readyAt e with fault := true, fcode := 1 }

/-- A ready block with a command in progress, about to take one transaction. -/
def busyAt (i : Instr) (e : Event) : State := { readyAt e with running := some ⟨i, [], []⟩ }

/-- The state of a next outcome, as far as one field goes. -/
def look {α : Type} (o : Out) (f : State → α) : Option α :=
  match o with
  | .next s => some (f s)
  | .fault _ => none
  | .refused _ => none

/-! ### The commands -/

/-- V15 and its STATUS: the registers after `init 4, 3, 100`. -/
theorem test_init :
    look (exec (.init 4 3 100) State.reset) (fun s => (s.rng, s.outw, s.outh, s.outBase, statusWord s))
      = some (194, 4, 3, 100, 0x00000002) := by decide +kernel

/-- V60: MAX_DIM + 1 is refused by INIT with code 3. -/
theorem test_init_bad_width :
    look (exec (.init 4097 1 0) State.reset) (fun s => (s.ready, s.fcode, s.outw)) = some (false, 3, 1) := by decide +kernel

/-- V18: `resize 2, 1, 200`. -/
theorem test_resize :
    look (exec (.resize 2 1 200) ready) (fun s => (s.outw, s.outh, s.outBase, s.fault)) = some (2, 1, 200, false) := by
  decide +kernel

/-- RESIZE before INIT records F_NOT_READY (R299). -/
theorem test_resize_cold :
    look (exec (.resize 2 1 200) State.reset) (fun s => (s.outw, s.fcode)) = some (1, 2) := by decide +kernel

/-- V17: RESET restores the calibration. -/
theorem test_reset :
    look (exec .reset { ready with cal := ⟨-5, 160, 64, 10, 90⟩, hsync := 7 }) (fun s => (s.cal, s.hsync))
      = some (⟨0, 128, 128, 7, 100⟩, 7) := by decide +kernel

/-- A MODULATE of height 0 records F_BAD_IMAGE (R294). -/
theorem test_modulate_bad_image :
    look (exec (.modulate 0 1 0 true false) ready) (fun s => (s.fcode, s.fault)) = some (4, true) := by decide +kernel

/-- DECODE before INIT records F_NOT_READY (R299). -/
theorem test_decode_cold : look (exec (.decode 0) State.reset) (fun s => s.fcode) = some 2 := by decide +kernel

/-- V19: the four samples of red (with the clamp), of cyan, of 0x123456. -/
theorem test_modulate_samples :
    [0, 1, 2, 3].map (activeSample 0xFF0000 true) = [54, 90, 15, -20]
      ∧ [0, 1, 2, 3].map (activeSample 0x00FFFF true) = [52, 17, 92, 127]
      ∧ [0, 1, 2, 3].map (activeSample 0x123456 true) = [25, 12, 22, 35]
      ∧ activeSample 0xFF0000 false 3 = 35 := by decide +kernel

/-- V20: line 0, line 3, and the burst of lines 9 and 10 at t = 95 to 101. -/
theorem test_template :
    [20, 21, 53, 54, 476, 508, 509].map (fun t => templateSample 0 t true false) = [0, -40, -40, 0, -40, -40, 0]
      ∧ [408, 409, 863, 864].map (fun t => templateSample 3 t true false) = [-40, 0, -40, 0]
      ∧ [95, 96, 97, 98, 99, 100, 101].map (fun t => templateSample 9 t true false) = [0, 0, 0, -20, 0, 20, 0]
      ∧ [98, 100].map (fun t => templateSample 10 t true false) = [20, -20]
      ∧ [98, 136, 137].map (fun t => templateSample 9 t true true) = [20, -20, 0] := by decide +kernel

/-- V22: source columns at width 2, source rows at height 3. -/
theorem test_source_coordinates :
    [0, 375, 376, 751].map (sourceColumn 2) = [0, 0, 1, 1]
      ∧ [sourceRow 3 119 false, sourceRow 3 120 false, sourceRow 480 119 true, sourceRow 481 239 true]
        = [1, 1, 239, 479] := by decide +kernel

/-- V23: the generator's first words and the deviations at noise 64 and 1000. -/
theorem test_noise :
    [1, 2, 3].map (fun n => rngAfter n 194) = [0x0AD6C61D, 0x87D8422E, 0xD8043A61]
      ∧ [1, 3].map (fun n => deviation 64 (rngAfter n 194)) = [21, -31]
      ∧ noisySample 1000 (rngAfter 6 194) 0 = -40 ∧ noisySample 1000 (rngAfter 3 194) 0 = -127 := by decide +kernel

/-- R260: luma and chroma of the red field of V21 after default calibration, and the packed pixel. -/
theorem test_red_pixel :
    calibrateLuma Calibration.default 278 = 76 ∧ calibrateChroma Calibration.default 440 = 151
      ∧ calibrateChroma Calibration.default 156 = 53 ∧ packPixel (toRGB 76 151 53) = 0xFD0100 := by decide +kernel

/-- V16: clamped calibration writes. -/
theorem test_register_writes :
    (writeCalibration Calibration.default 3 0xFFFFFFFB).brightness = -5
      ∧ (writeCalibration Calibration.default 3 0x80000000).brightness = -100
      ∧ (writeCalibration Calibration.default 4 0xFFFFFFFF).contrast = 0
      ∧ (writeCalibration Calibration.default 6 51).blackPoint = 50
      ∧ (writeCalibration Calibration.default 7 59).whitePoint = 60 := by decide +kernel

/-- R68: solid red as bytes. -/
theorem test_pixel_bytes :
    [6, 7, 8].map (State.pixelByte { ready with pix := [(2, 0xFF0102)] }) = [0xFF, 0x01, 0x02] := by decide +kernel

/-! ### Witnesses: states and operands that meet the hypotheses of the statements -/

theorem source_mapped (c : Nat) (s : State) (h : s.mapped c = true) (f : Bool) : SourceMapped s c 1 1 f := by
  intro x hx y _
  have h₁ : x * 1 / 752 = 0 := by omega
  rw [h₁]
  simpa using h

theorem source_unmapped (f : Bool) : ¬ SourceMapped unmapped 0 1 1 f := by
  intro h
  have := h 0 (by decide) 0 (by decide)
  revert this
  cases f <;> decide +kernel

theorem output_mapped (s : State) (hw : s.outw = 1) (hh : s.outh = 1) (h : s.mapped s.outBase.toNat = true) :
    OutputMapped s := by
  intro i hi
  rw [hw, hh] at hi
  have : i = 0 := by omega
  simpa [this] using h

theorem test_witness_DecodeEncodeRoundTrip :
    Instr.wellFormed (.init 4294967295 1 0) = true ∧ Instr.wellFormed (.resize 1 1 4294967295) = true
      ∧ Instr.wellFormed .reset = true ∧ Instr.wellFormed (.modulate 0 4294967295 1 true false) = true
      ∧ Instr.wellFormed (.decode 4294967295) = true := by decide

theorem test_witness_IgnoredWordsHaveNoEffect : (3 : Word).toNat = 3 ∧ (5 : Word).toNat = 5 := by decide

theorem test_witness_StepRunsDecodedCommand :
    (readyAt (.command ⟨3, 0, 0, 0⟩)).events = [.command ⟨3, 0, 0, 0⟩] ∧ decode ⟨3, 0, 0, 0⟩ = .command .reset := by
  decide

theorem test_witness_IllegalPacketRecordsFault :
    Idle (coldAt (.command ⟨6, 0, 0, 0⟩)) ∧ (6 : Word).toNat % 256 = 6 ∧ (0x405 : Word).toNat / 1024 = 1
      ∧ (0x105 : Word).toNat / 256 % 2 = 1 ∧ (0x205 : Word).toNat / 512 % 2 = 1 ∧ (0x105 : Word).toNat % 256 ≠ 4
      ∧ (0 : Word).toNat % 256 = 0
      ∧ ¬ ((0x304 : Word).toNat % 256 = 0 ∨ 6 ≤ (0x304 : Word).toNat % 256 ∨ (0x304 : Word).toNat / 1024 ≠ 0
        ∨ (((0x304 : Word).toNat / 256 % 2 = 1 ∨ (0x304 : Word).toNat / 512 % 2 = 1)
          ∧ (0x304 : Word).toNat % 256 ≠ 4)) := by decide

theorem test_witness_FaultedBlockIgnoresWrites :
    (faultedAt (.command ⟨3, 0, 0, 0⟩)).fault = true ∧ (faultedAt (.start ⟨3, 0, 0, 0⟩)).fault = true
      ∧ (faultedAt (.regWrite 3 0)).fault = true ∧ (faultedAt (.anaWrite 0 0)).fault = true
      ∧ (faultedAt (.regRead 11)).fault = true ∧ (faultedAt (.anaRead 238419)).fault = true
      ∧ (faultedAt (.rawRead 0)).fault = true ∧ (faultedAt (.regRead 0)).running = none
      ∧ (faultedAt (.regRead 0)).ready = true ∧ (faultedAt (.regRead 0)).fcode ≠ 5 := by decide

/-- The last clause of FaultedBlockIgnoresWrites: power-on reset clears a fault. -/
theorem test_witness_FaultedBlock_powerOn :
    (faultedAt .powerOn).fault = true ∧ ∃ t, step (faultedAt .powerOn) = .next t ∧ t.fault = false :=
  ⟨rfl, _, rfl, rfl⟩

theorem test_witness_InitCreatesDevice :
    Idle State.reset ∧ GoodDims State.reset 1 4096 ∧ GoodDims State.reset 4096 1 ∧ ¬ GoodDims State.reset 0 1
      ∧ ¬ GoodDims State.reset 4097 1 ∧ ¬ GoodDims State.reset 1 0 ∧ ¬ GoodDims State.reset 1 4097 := by decide

theorem test_witness_ResizeRebindsOnly :
    Idle ready ∧ ready.ready = true ∧ GoodDims ready 4096 1 ∧ ¬ GoodDims ready 1 4097 ∧ Idle State.reset
      ∧ State.reset.ready = false := by decide

theorem test_witness_ResizeIdempotentThenDecodes :
    DeviceReady ready ∧ GoodDims ready 1 1 ∧ (4294967295 : Nat) < 2 ^ 32
      ∧ ∀ i < 1 * 1, ready.mapped (4294967295 + i) = true := by decide +kernel

theorem test_witness_ResetRestoresCalibrationOnly :
    Idle ready ∧ ready.ready = true ∧ Idle State.reset ∧ State.reset.ready = false := by decide

theorem test_witness_BadGeometryFault :
    Idle ready ∧ ready.ready = true ∧ (ready.params.maxDim < 4097 ∧ 4097 ≠ 0) ∧ Idle State.reset := by decide

theorem test_witness_BadImageFault : DeviceReady ready ∧ ready.params.maxDim < 4097 := by decide

theorem test_witness_NotReadyFault :
    Idle State.reset ∧ State.reset.ready = false ∧ (∀ w h p, Instr.reset ≠ .init w h p)
      ∧ (∀ w h p, Instr.decode 0 ≠ .init w h p) ∧ (coldAt (.regWrite 3 0)).events = [.regWrite 3 0]
      ∧ (coldAt (.regWrite 7 0)).events = [.regWrite 7 0] ∧ (coldAt (.anaWrite 0 0)).events = [.anaWrite 0 0]
      ∧ (coldAt (.regRead 1)).events = [.regRead 1] ∧ (coldAt (.regRead 11)).events = [.regRead 11]
      ∧ (coldAt (.anaRead 0)).events = [.anaRead 0] ∧ Idle (coldAt (.anaRead 0))
      ∧ (coldAt (.rawRead 0)).events = [.rawRead 0] ∧ State.reset.raw.fill = .unspecified ∧ State.reset.raw.cells = [] := by
  refine ⟨by decide, rfl, ?_, ?_, rfl, rfl, rfl, rfl, rfl, rfl, by decide, rfl, rfl, rfl⟩ <;> (intro w h p hc; cases hc)

/-- The hypotheses of ModulateWritesAnalogOnly, ModulateTemplate, ModulatePicture, ModulateSampleRanges and
ParityMovesNoSync, for both parities. -/
theorem test_witness_Modulate :
    DeviceReady ready ∧ GoodDims ready 1 1 ∧ SourceMapped ready 0 1 1 false ∧ SourceMapped ready 0 1 1 true :=
  ⟨by decide, by decide, source_mapped 0 ready (by decide +kernel) _, source_mapped 0 ready (by decide +kernel) _⟩

/-- The executions ModulateSampleRanges and ParityMovesNoSync suppose: MODULATE of a mapped frame answers a next state. -/
theorem test_witness_Modulate_runs (f : Bool) : ∃ t, exec (.modulate 0 1 1 true f) ready = .next t := by
  rw [exec_modulate]
  exact gate_isNext _ _ _

theorem test_witness_Modulate_ranges :
    ¬ (21 ≤ 20 ∧ 20 ≤ 260 ∧ 156 ≤ 156 ∧ 156 < 908) ∧ ¬ (21 ≤ 21 ∧ 21 ≤ 260 ∧ 156 ≤ 155 ∧ 155 < 908)
      ∧ ¬ (21 ≤ 260 ∧ 260 ≤ 260 ∧ 156 ≤ 908 ∧ 908 < 908) ∧ ¬ (21 ≤ 261 ∧ 261 ≤ 260 ∧ 156 ≤ 156 ∧ 156 < 908) := by decide

theorem test_witness_ModulateUnmappedFault :
    DeviceReady unmapped ∧ GoodDims unmapped 1 1 ∧ ¬ SourceMapped unmapped 0 1 1 false :=
  ⟨by decide, by decide, source_unmapped _⟩

/-- DecodeWritesFullFrame, DecodeNoiseStage, CalibrationTouchesPixelsOnly; with `ready` twice, DecodeFunctionOfDevice. -/
theorem test_witness_Decode : DeviceReady ready ∧ OutputMapped ready ∧ ready.analog.fill = .zero :=
  ⟨by decide, output_mapped ready rfl rfl (by decide +kernel), rfl⟩

/-- DecodeFunctionOfDevice with two different states: another pixel memory, another buffer address. -/
theorem test_witness_DecodeFunctionOfDevice :
    DeviceReady { ready with outBase := 77, pix := [(3, 5)] } ∧ OutputMapped { ready with outBase := 77, pix := [(3, 5)] }
      ∧ { ready with outBase := 77, pix := [(3, 5)] }.analog = ready.analog
      ∧ { ready with outBase := 77, pix := [(3, 5)] } ≠ ready :=
  ⟨by decide, output_mapped _ rfl rfl (by decide +kernel), rfl, by decide +kernel⟩

theorem test_witness_DecodeUnmappedFault : DeviceReady unmapped ∧ ¬ OutputMapped unmapped := by
  refine ⟨by decide, fun h => ?_⟩
  have := h 0 (by decide)
  revert this
  decide +kernel

theorem test_witness_NoSyncFallsBackToNominal :
    (17 : Nat) < 910 ∧ (5 : Nat) < 262 ∧ (909 : Nat) < 910 ∧ (261 : Nat) < 262
      ∧ ∀ k : Nat, k < 238420 → (-20 : Int) ≤ (fun _ => -20) k :=
  ⟨by decide, by decide, by decide, by decide, fun _ _ => le_refl _⟩

/-- CleanFieldLocks: the template itself, cut to the sync pulses. -/
theorem test_witness_CleanFieldLocks :
    ∀ k < 238420, (fun k : Nat => if templateSample (k / 910) (k % 910) false false = -40 then (-40 : Int) else 0) k < -20
      ↔ templateSample (k / 910) (k % 910) false false = -40 := by
  intro k _
  by_cases h : templateSample (k / 910) (k % 910) false false = -40 <;> simp [h]

/-- TrackerTransitions: a tracker in each mode, a rising edge after a broad pulse, a line due for its timeout, and the
slicer with its run counter short of 8 and at 8, on a low and on a high sample. -/
theorem test_witness_TrackerTransitions :
    trackerStart.st = .searchingH ∧ (fall 1841 { trackerStart with cand := some 931, good := 1 }).st = .lockedH
      ∧ (fall 1386 { trackerStart with st := .lockedH, lastfall := some 931, shortc := 2 }).st = .searchingV
      ∧ (rise 200 { trackerStart with st := .searchingV, lastfall := some 0 }).st = .lockedField
      ∧ (rise 199 { trackerStart with st := .searchingV, lastfall := some 0 }).st = .searchingV
      ∧ (timeout 36 { trackerStart with st := .lockedH, miss := 3 }).st = .searchingH
      ∧ (timeout 35 { trackerStart with st := .lockedH, miss := 3 }).st = .lockedH
      ∧ slice (-21) 9 { trackerStart with run := 6 } = { trackerStart with run := 7 }
      ∧ (slice (-21) 9 { trackerStart with run := 7 }).lastfall = some 2
      ∧ slice (-20) 9 { trackerStart with run := 7 } = { trackerStart with run := 0 }
      ∧ (slice (-20) 300 { trackerStart with st := .searchingV, lastfall := some 0, lvl := true, run := 7 }).st
        = .lockedField := by decide +kernel

theorem test_witness_CleanBurstMeasures :
    (261 : Nat) < 262 ∧ ∀ o, 101 ≤ o → o ≤ 132 →
      (fun a : Nat => -20 * cos4 (a + 2 * true.toNat)) (910 * 261 + o) = -20 * cos4 (910 * 261 + o + 2 * true.toNat) :=
  ⟨by decide, fun _ _ _ => rfl⟩

theorem test_witness_ColourKillerGivesGrey :
    |(gateSums (fun _ => 0) 0).bc| + |(gateSums (fun _ => 0) 0).bs| < 160 := by decide +kernel

theorem test_witness_PeriodicSignalDemodulates :
    ∀ a < 238420, (fun a : Nat => if a % 4 = 0 then (54 : Int) else if a % 4 = 1 then 90 else if a % 4 = 2 then 15 else -20) a
      = if a % 4 = 0 then 54 else if a % 4 = 1 then 90 else if a % 4 = 2 then 15 else -20 := fun _ _ => rfl

theorem test_witness_FlatLumaMakesNoChroma : ∀ a < 238420, (fun _ : Nat => (100 : Int)) a = 100 := fun _ _ => rfl

/-- MonochromeInvariance; with a red frame, UniformFieldRoundTrip and RedFieldWorkedExamples at both calibrations. -/
theorem test_witness_RoundTrip (c : Calibration) :
    let s : State := { ready with cal := c, pix := [(0, 0xFF0000)], outBase := 8 }
    DeviceReady s ∧ GoodDims s 1 1 ∧ SourceMapped s 0 1 1 true ∧ OutputMapped s ∧ s.hsync = 0 ∧ s.vsync = 0
      ∧ s.params.bloomEn = false ∧ ∀ i < 1 * 1, s.pixel (0 + i) = 0xFF0000 := by
  refine ⟨⟨rfl, rfl, rfl⟩, ⟨⟨by decide, by show 1 ≤ 4096; decide⟩, by decide, by show 1 ≤ 4096; decide⟩,
    source_mapped 0 _ rfl _, output_mapped _ rfl rfl rfl, rfl, rfl, rfl, ?_⟩
  intro i hi
  have : i = 0 := by omega
  subst this
  rfl

theorem test_witness_RegisterReadAnswers :
    (readyAt (.regRead 1)).events = [.regRead 1] ∧ (readyAt (.regRead 11)).running = none
      ∧ (readyAt (.regRead 11)).ready = true ∧ (readyAt (.regRead 11)).fault = false
      ∧ (coldAt (.regRead 11)).events = [.regRead 11] ∧ (coldAt (.regRead 11)).ready = false
      ∧ (coldAt (.regRead 12)).events = [.regRead 12] ∧ (coldAt (.regRead 12)).running = none := by decide

theorem test_witness_RegisterWriteClamps :
    Idle (readyAt (.regWrite 2 9)) ∧ (readyAt (.regWrite 8 9)).events = [.regWrite 8 9]
      ∧ Idle (readyAt (.regWrite 3 9)) ∧ (readyAt (.regWrite 7 9)).ready = true
      ∧ (readyAt (.regWrite 7 9)).events = [.regWrite 7 9] ∧ Idle (coldAt (.regWrite 3 9))
      ∧ (coldAt (.regWrite 7 9)).ready = false ∧ (faultedAt (.regWrite 3 9)).fault = true
      ∧ (faultedAt (.regWrite 3 9)).running = none := by decide

/-- AnalogWriteThenRead: each case of a write, and a read, at the first and the last cell. -/
theorem test_witness_AnalogWriteThenRead :
    DeviceReady (readyAt (.anaWrite 238419 5)) ∧ (238419 : Nat) < 238420
      ∧ (readyAt (.anaWrite 238419 5)).events = [.anaWrite 238419 5]
      ∧ (readyAt (.anaWrite 0 5)).events = [.anaWrite 0 5]
      ∧ (faultedAt (.anaWrite 0 5)).fault = true ∧ (faultedAt (.anaWrite 0 5)).running = none
      ∧ Idle (coldAt (.anaWrite 0 5)) ∧ (coldAt (.anaWrite 0 5)).ready = false
      ∧ (readyAt (.anaRead 0)).events = [.anaRead 0] ∧ (readyAt (.anaRead 238419)).events = [.anaRead 238419]
      ∧ (readyAt (.rawRead 0)).events = [.rawRead 0] ∧ (readyAt (.rawRead 238419)).events = [.rawRead 238419]
      ∧ (coldAt (.anaRead 238419)).running = none := by decide

theorem test_witness_BadIndexFault :
    (238420 : Nat) ≤ 238420 ∧ DeviceReady (readyAt (.anaWrite 238420 5))
      ∧ (readyAt (.anaRead 238420)).events = [.anaRead 238420]
      ∧ (readyAt (.rawRead 238420)).events = [.rawRead 238420] := by decide

theorem test_witness_BusyTransactionFault :
    (busyAt (.decode 0) (.command ⟨3, 0, 0, 0⟩)).fault = false
      ∧ (busyAt (.decode 0) (.start ⟨3, 0, 0, 0⟩)).running = some ⟨.decode 0, [], []⟩
      ∧ (busyAt (.decode 0) (.regWrite 3 0)).events = [.regWrite 3 0]
      ∧ (busyAt (.decode 0) (.anaWrite 0 0)).events = [.anaWrite 0 0]
      ∧ (busyAt (.decode 0) (.regRead 0)).events = [.regRead 0]
      ∧ (busyAt (.decode 0) (.regRead 11)).events = [.regRead 11]
      ∧ (busyAt (.decode 0) (.anaRead 238420)).events = [.anaRead 238420]
      ∧ (busyAt (.decode 0) (.rawRead 0)).events = [.rawRead 0] := by decide

theorem test_witness_StartThenFinishIsCommand :
    decode ⟨0x00000005, 64, 0, 0⟩ = .command (.decode 64) ∧ canRun (.decode 64) ready = true := by decide +kernel

theorem test_witness_SourceWriteDuringModulate :
    let s : State := { busyAt (.modulate 0 1 1 true false) (.pixWrite 0 7) with events := [.pixWrite 0 7, .finish] }
    s.fault = false ∧ s.ready = true ∧ s.running = some ⟨.modulate 0 1 1 true false, [], []⟩ ∧ GoodDims s 1 1
      ∧ SourceMapped s 0 1 1 false ∧ s.mapped 0 = true ∧ s.events = [.pixWrite 0 7, .finish] ∧ inPicture 21 156 = true :=
  ⟨rfl, rfl, rfl, by decide, source_mapped 0 _ rfl _, rfl, rfl, by decide⟩

/-- PowerOnResetClears: no command, a MODULATE and a DECODE in progress, one whose output cell only an earlier map has. -/
theorem test_witness_PowerOnResetClears :
    (busyAt (.modulate 0 1 1 true false) .powerOn).events = [.powerOn] ∧ (readyAt .powerOn).running = none
      ∧ (busyAt (.decode 0) .powerOn).events = [.powerOn]
      ∧ (busyAt (.decode 0) .powerOn).mapped (busyAt (.decode 0) .powerOn).outBase.toNat = true
      ∧ unmapped.mapped 0 = false ∧ mappedInSome [unmapped.params.pixmem, ready.params.pixmem] 0 = true := by
  decide +kernel

/-- RawReadShowsLastDecode: both clauses. -/
theorem test_witness_RawReadShowsLastDecode :
    DeviceReady ready ∧ (238419 : Nat) < 238420 ∧ Idle State.reset ∧ GoodDims State.reset 1 4096 := by decide

/-- OutputReadDuringDecode, on a cell of the output buffer and on one outside. -/
theorem test_witness_OutputReadDuringDecode :
    (busyAt (.decode 0) (.pixRead 0)).running = some ⟨.decode 0, [], []⟩
      ∧ (busyAt (.decode 0) (.pixRead 0)).events = [.pixRead 0]
      ∧ (busyAt (.decode 0) (.pixRead 0)).mapped 0 = true ∧ (busyAt (.decode 0) (.pixRead 0)).outBase.toNat = 0
      ∧ (busyAt (.decode 0) (.pixRead 1)).mapped 1 = true ∧ (busyAt (.decode 0) (.pixRead 1)).outw = 1 := by decide +kernel

/-- A state with the invariant and a step from it: a ready block that takes a RESIZE. -/
theorem test_witness_StepKeepsInvariant :
    Inv (readyAt (.command ⟨2, 2, 1, 200⟩))
      ∧ ∃ t, step (readyAt (.command ⟨2, 2, 1, 200⟩)) = .next t ∧ t.outw = 2 ∧ t.outBase = 200 := by
  refine ⟨?_, _, rfl, rfl, rfl⟩
  constructor <;> decide +kernel

end Sys2Proof.Tests
end

/-! PROOFS. The register port (R30, R34 to R37): the bits of STATUS, what a register index reads as and what a write to it
does. First what a step does with a transaction, then the laws of the port, then the claims. -/

namespace Sys2Proof.Machine

/-! ### A step takes the oldest transaction -/

/-- The oldest transaction is performed on the block with the later ones still to come (R75). -/
theorem step_of_events {s : State} {e : Event} {rest : List Event} (h : s.events = e :: rest) :
    step s = perform e { s with events := rest } := by
  unfold step takeTransaction
  rw [h]

theorem perform_regRead (i : Nat) (s : State) : perform (.regRead i) s = .next (regRead i s) := rfl

theorem perform_regWrite (i : Nat) (v : Word) (s : State) : perform (.regWrite i v) s = .next (regWrite i v s) := rfl

/-- Recording a fault on an idle, unfaulted block sets `fault` and `fcode` and nothing else (R296). -/
theorem raiseFault_idle {s : State} (h : Idle s) (c : FaultCode) :
    raiseFault c s = { s with fault := true, fcode := c.number } := by
  obtain ⟨hf, hr⟩ := h
  unfold raiseFault
  rw [if_neg (by simp [hf]), ← hr]

/-- On a range that is not empty `clamp` is the nearest value of the range (R14). -/
theorem clamp_eq_max_min {v lo hi : Int} (h : lo ≤ hi) : clamp v lo hi = max lo (min hi v) := by
  unfold clamp
  split
  · omega
  · split <;> omega

/-! ### STATUS -/

/-- STATUS bit by bit (R30). -/
theorem statusWord_getLsbD (s : State) (i : Nat) :
    (statusWord s).getLsbD i
      = if i = 0 then s.busy else if i = 1 then s.ready else if i = 2 then s.fault else if i = 3 then false
        else if i < 8 then s.fcode.getLsbD (i - 4) else if i = 8 then s.params.bloomEn else false := by
  unfold statusWord
  simp only [BitVec.getLsbD_append, BitVec.getLsbD_ofBool, BitVec.getLsbD_zero]
  by_cases h9 : 9 ≤ i
  · grind
  · interval_cases i <;> rfl

/-- The FCODE field of STATUS (R30). -/
theorem statusWord_fcode (s : State) : (statusWord s).extractLsb' 4 4 = s.fcode := by
  apply BitVec.eq_of_getLsbD_eq
  intro i hi
  rw [BitVec.getLsbD_extractLsb', statusWord_getLsbD]
  grind

/-- The bits of STATUS above BLOOM are 0 (R30). -/
theorem statusWord_getLsbD_high (s : State) {i : Nat} (hi : 9 ≤ i) : (statusWord s).getLsbD i = false := by
  rw [statusWord_getLsbD]
  grind

/-- Settles O40: every bit is read off `statusWord_getLsbD`. -/
theorem statusBits : Obligations.StatusBits := by
  intro s
  exact ⟨statusWord_getLsbD s 0, statusWord_getLsbD s 1, statusWord_getLsbD s 2, statusWord_getLsbD s 3,
    statusWord_fcode s, statusWord_getLsbD s 8, fun _ hi => statusWord_getLsbD_high s hi⟩

/-! ### Register reads -/

/-- F_BUSY has scrambled the block iff it is the recorded fault (R331). -/
theorem scrambled_eq_false {s : State} : s.scrambled = false ↔ ¬ (s.fault = true ∧ s.fcode = 5) := by
  simp [State.scrambled, FaultCode.number]

/-- STATUS reads as the assembled word at any time (R35). -/
@[simp] theorem regValue_status (s : State) : regValue s 0 = statusWord s := rfl

/-- On an idle block a reserved index reads 0 (R37). -/
theorem regValue_reserved {s : State} (hr : s.running = none) {i : Nat} (hi : 12 ≤ i) : regValue s i = 0 := by
  unfold regValue
  rw [if_neg (by omega), busy_eq_false.2 hr, if_neg (by decide), if_pos hi]

/-- On an idle block before INIT every register but STATUS reads as a free value (R35, U2). -/
theorem regValue_before_init {s : State} (hr : s.running = none) (hd : s.ready = false) {i : Nat} (h1 : 1 ≤ i)
    (h11 : i ≤ 11) : regValue s i = Config.freeWord s.draws := by
  unfold regValue
  rw [if_neg (by omega), busy_eq_false.2 hr, if_neg (by decide), if_neg (by omega), if_pos (by rw [hd]; rfl)]

/-- On an idle, ready block that no F_BUSY has scrambled a register reads as its field (R34, R35). -/
theorem regValue_ready {s : State} (hr : s.running = none) (hd : s.ready = true) (hs : s.scrambled = false) {i : Nat}
    (h1 : 1 ≤ i) (h11 : i ≤ 11) : regValue s i = registerField s i := by
  unfold regValue
  rw [if_neg (by omega), busy_eq_false.2 hr, if_neg (by decide), if_neg (by omega), hd, hs, if_neg (by decide)]

/-- The word a register reads as does not depend on the transactions still to come. -/
theorem regValue_events (s : State) (es : List Event) (i : Nat) : regValue { s with events := es } i = regValue s i := rfl

/-- A register read answers `regValue` and changes nothing of the block (R35). -/
theorem step_regRead {s : State} {i : Nat} {rest : List Event} (h : s.events = .regRead i :: rest) :
    step s = .next { s with events := rest, draws := s.draws + 1, reply := some (.word (regValue s i)) } := by
  rw [step_of_events h, perform_regRead, regRead, regValue_events]
  rfl

/-- Settles O41: the word is `regValue s i`, and each clause is the law of `regValue` for that case. -/
theorem registerReadAnswers : Obligations.RegisterReadAnswers := by
  intro s i rest h
  refine ⟨regValue s i, step_regRead h, fun h0 => by rw [h0, regValue_status], fun hr =>
    ⟨fun hi => regValue_reserved hr hi, fun h1 h11 hd => regValue_before_init hr hd h1 h11, fun hd hb => ?_⟩⟩
  have field {j : Nat} (h1 : 1 ≤ j) (h11 : j ≤ 11) : regValue s j = registerField s j :=
    regValue_ready hr hd (scrambled_eq_false.2 hb) h1 h11
  refine ⟨?hsync, ?vsync, ?brightness, ?contrast, ?saturation, ?blackPoint, ?whitePoint, ?outw, ?outh, ?outBase, ?rng⟩
  case hsync | vsync | outw | outh =>
    rintro rfl
    rw [field (by decide) (by decide)]
    exact BitVec.toNat_ofNat _ _
  case brightness | contrast | saturation | blackPoint | whitePoint | outBase | rng =>
    rintro rfl
    exact field (by decide) (by decide)

/-! ### Register writes -/

theorem writableReg_eq_true {i : Nat} : writableReg i = true ↔ 3 ≤ i ∧ i ≤ 7 := by simp [writableReg]

theorem writableReg_eq_false {i : Nat} : writableReg i = false ↔ i < 3 ∨ 7 < i := by
  rw [← Bool.not_eq_true, writableReg_eq_true]
  omega

/-- After a fault a register write is ignored (R297). -/
theorem regWrite_faulted {s : State} (hf : s.fault = true) (i : Nat) (v : Word) : regWrite i v s = s := by
  simpa [hf] using regWrite_cases i v s

/-- On an idle, unfaulted block a write to an index that is no calibration register is ignored (R37). -/
theorem regWrite_readOnly {s : State} (hs : Idle s) {i : Nat} (hw : writableReg i = false) (v : Word) :
    regWrite i v s = s := by
  obtain ⟨hf, hr⟩ := hs
  simpa [hf, hr, hw] using regWrite_cases i v s

/-- On an idle, unfaulted block before INIT a calibration write records F_NOT_READY and nothing else (R299). -/
theorem regWrite_before_init {s : State} (hs : Idle s) (hd : s.ready = false) {i : Nat} (hw : writableReg i = true)
    (v : Word) : regWrite i v s = { s with fault := true, fcode := 2 } := by
  have e : regWrite i v s = raiseFault .notReady s := by
    obtain ⟨hf, hr⟩ := hs
    simpa [hf, hr, hw, hd] using regWrite_cases i v s
  rw [e, raiseFault_idle hs]
  rfl

/-- On an idle, unfaulted, ready block a calibration write changes the calibration and nothing else (R36). -/
theorem regWrite_ready {s : State} (hs : DeviceReady s) {i : Nat} (hw : writableReg i = true) (v : Word) :
    regWrite i v s = { s with cal := writeCalibration s.cal i v } := by
  obtain ⟨hf, hr, hd⟩ := hs
  simpa [hf, hr, hw, hd] using regWrite_cases i v s

/-- A step on a register write is the write on the block with the later transactions still to come (R36). -/
theorem step_regWrite {s : State} {i : Nat} {v : Word} {rest : List Event} (h : s.events = .regWrite i v :: rest) :
    step s = .next (regWrite i v { s with events := rest }) := by
  rw [step_of_events h, perform_regWrite]

/-- Settles O42: the cases of the checks in their order, then the clamped field of each calibration register. -/
theorem registerWriteClamps : Obligations.RegisterWriteClamps := by
  intro s i v rest hr h
  rw [step_regWrite h]
  refine ⟨fun hf => ?faulted, fun hf => ?unfaulted⟩
  case faulted => rw [regWrite_faulted (s := { s with events := rest }) hf]
  case unfaulted =>
    have idle : Idle { s with events := rest } := ⟨hf, hr⟩
    refine ⟨fun hi => ?readOnly, fun h3 h7 hd => ?notReady, fun hd => ?ready⟩
    case readOnly => rw [regWrite_readOnly idle (writableReg_eq_false.2 hi)]
    case notReady => rw [regWrite_before_init idle hd (writableReg_eq_true.2 ⟨h3, h7⟩)]
    case ready =>
      have ready : DeviceReady { s with events := rest } := ⟨hf, hr, hd⟩
      refine ⟨?brightness, ?contrast, ?saturation, ?blackPoint, ?whitePoint⟩
      case brightness | contrast | saturation | blackPoint | whitePoint =>
        rintro rfl
        rw [regWrite_ready ready (by decide), writeCalibration, clamp_eq_max_min (by decide)]

end Sys2Proof.Machine

/-! PROOFS. The opcode map (R93, R94): which words a row's mask and match let through, said by the fields of the packet;
then what the decoder makes of a packet of each row, and the row of each command it yields; then the claims. -/

namespace Sys2Proof

open Laws.MatchesItsRow (rowMatch rowMask)

/-! ### The head word and its fields -/

/-- A head word with no reserved bit is the one written with its own opcode and flags (R91). -/
theorem w0_eq_headWord {p : Packet} (hz : p.reserved = 0) : p.w0 = headWord p.op p.flagC p.flagF := by
  have hlt := p.w0.isLt
  have hop : p.op = p.w0.toNat % 256 := by
    simp [Packet.op, BitVec.extractLsb'_toNat]
  have hres : p.w0.toNat / 1024 = 0 := by
    rw [Packet.reserved, BitVec.extractLsb'_toNat, Nat.shiftRight_eq_div_pow] at hz
    omega
  have hc : p.flagC.toNat = p.w0.toNat / 256 % 2 := by
    rw [Packet.flagC, BitVec.getLsbD, Nat.toNat_testBit]
  have hf : p.flagF.toNat = p.w0.toNat / 512 % 2 := by
    rw [Packet.flagF, BitVec.getLsbD, Nat.toNat_testBit]
  apply BitVec.eq_of_toNat_eq
  rw [headWord, BitVec.toNat_ofNat, hop, hc, hf]
  omega

/-- A packet's first word is the head word of `op`, `c` and `f` iff its fields hold these and no reserved bit (R91). -/
theorem w0_eq_headWord_iff {p : Packet} {op : Nat} (h : op < 256) {c f : Bool} :
    p.w0 = headWord op c f ↔ p.reserved = 0 ∧ p.op = op ∧ p.flagC = c ∧ p.flagF = f := by
  constructor
  · intro hw
    obtain ⟨w0, w1, w2, w3⟩ := p
    obtain rfl : w0 = headWord op c f := hw
    obtain ⟨hop, hc, hf, hz⟩ := headWord_fields h c f w1 w2 w3
    exact ⟨hz, hop, hc, hf⟩
  · rintro ⟨hz, rfl, rfl, rfl⟩
    exact w0_eq_headWord hz

/-- The mask of four rows of R93 keeps every bit: such a row fixes the opcode and clears both flags. -/
theorem matches_fullMask_iff {p : Packet} {op : Nat} (h : op < 256) :
    p.w0 &&& 0xFFFFFFFF = headWord op false false
      ↔ p.reserved = 0 ∧ p.op = op ∧ p.flagC = false ∧ p.flagF = false := by
  rw [show (0xFFFFFFFF : Word) = BitVec.allOnes 32 from rfl, BitVec.and_allOnes, w0_eq_headWord_iff h]

/-- The packet with C and F cleared: what the mask of the MODULATE row leaves of it (R93). -/
def Packet.clearFlags (p : Packet) : Packet := { p with w0 := p.w0 &&& 0xFFFFFCFF }

@[simp] theorem Packet.clearFlags_reserved (p : Packet) : p.clearFlags.reserved = p.reserved := by
  rw [reserved, clearFlags, BitVec.extractLsb'_and,
    show (0xFFFFFCFF : Word).extractLsb' 10 22 = BitVec.allOnes 22 by decide, BitVec.and_allOnes, ← reserved]

@[simp] theorem Packet.clearFlags_op (p : Packet) : p.clearFlags.op = p.op := by
  rw [op, clearFlags, BitVec.extractLsb'_and,
    show (0xFFFFFCFF : Word).extractLsb' 0 8 = BitVec.allOnes 8 by decide, BitVec.and_allOnes, ← op]

@[simp] theorem Packet.clearFlags_flagC (p : Packet) : p.clearFlags.flagC = false := by
  simp [flagC, clearFlags]

@[simp] theorem Packet.clearFlags_flagF (p : Packet) : p.clearFlags.flagF = false := by
  simp [flagF, clearFlags]

/-- The mask of the MODULATE row of R93 drops C and F: such a row fixes the opcode and leaves the flags free. -/
theorem matches_flagMask_iff {p : Packet} {op : Nat} (h : op < 256) :
    p.w0 &&& 0xFFFFFCFF = headWord op false false ↔ p.reserved = 0 ∧ p.op = op := by
  change p.clearFlags.w0 = headWord op false false ↔ _
  rw [w0_eq_headWord_iff h]
  simp

/-! ### From a row to its command, and back -/

/-- What the decoder makes of a packet of the INIT row (R93). -/
theorem decode_of_matches_init {p : Packet} (h : p.w0 &&& 0xFFFFFFFF = 0x00000001) :
    decode p = .command (.init p.w1.toNat p.w2.toNat p.w3.toNat) := by
  obtain ⟨hz, hop, hc, hf⟩ := (matches_fullMask_iff (op := 1) (by decide)).1 h
  simp [decode, hz, hop, hc, hf, Packet.operandA, Packet.operandB, Packet.operandP]

/-- What the decoder makes of a packet of the RESIZE row (R93). -/
theorem decode_of_matches_resize {p : Packet} (h : p.w0 &&& 0xFFFFFFFF = 0x00000002) :
    decode p = .command (.resize p.w1.toNat p.w2.toNat p.w3.toNat) := by
  obtain ⟨hz, hop, hc, hf⟩ := (matches_fullMask_iff (op := 2) (by decide)).1 h
  simp [decode, hz, hop, hc, hf, Packet.operandA, Packet.operandB, Packet.operandP]

/-- What the decoder makes of a packet of the RESET row (R93). -/
theorem decode_of_matches_reset {p : Packet} (h : p.w0 &&& 0xFFFFFFFF = 0x00000003) :
    decode p = .command .reset := by
  obtain ⟨hz, hop, hc, hf⟩ := (matches_fullMask_iff (op := 3) (by decide)).1 h
  simp [decode, hz, hop, hc, hf]

/-- What the decoder makes of a packet of the MODULATE row, the only one whose flags are operands (R93). -/
theorem decode_of_matches_modulate {p : Packet} (h : p.w0 &&& 0xFFFFFCFF = 0x00000004) :
    decode p = .command (.modulate p.w3.toNat p.w1.toNat p.w2.toNat (p.w0.getLsbD 8) (p.w0.getLsbD 9)) := by
  obtain ⟨hz, hop⟩ := (matches_flagMask_iff (op := 4) (by decide)).1 h
  simp [decode, hz, hop, Packet.operandA, Packet.operandB, Packet.operandP, Packet.flagC, Packet.flagF]

/-- What the decoder makes of a packet of the DECODE row (R93). -/
theorem decode_of_matches_decode {p : Packet} (h : p.w0 &&& 0xFFFFFFFF = 0x00000005) :
    decode p = .command (.decode p.w1.toNat) := by
  obtain ⟨hz, hop, hc, hf⟩ := (matches_fullMask_iff (op := 5) (by decide)).1 h
  simp [decode, hz, hop, hc, hf, Packet.operandA]

/-- W0 = 3 is RESET whatever the other words hold (R94). -/
theorem decode_resetHead (a b c : Word) : decode ⟨3, a, b, c⟩ = .command .reset :=
  decode_of_matches_reset (show (3 : Word) &&& 0xFFFFFFFF = 3 by decide)

/-- W0 = 5 is DECODE of W1 whatever the last two words hold (R94). -/
theorem decode_decodeHead (a b c : Word) : decode ⟨5, a, b, c⟩ = .command (.decode a.toNat) :=
  decode_of_matches_decode (show (5 : Word) &&& 0xFFFFFFFF = 5 by decide)

/-- A packet that decodes to a command has no reserved bit, its opcode, and a flag only for MODULATE (R95). -/
theorem fields_of_decode {p : Packet} {i : Instr} (h : decode p = .command i) :
    p.reserved = 0 ∧ p.op = i.opcode ∧ (i.opcode = 0x04 ∨ p.flagC = false ∧ p.flagF = false) := by
  unfold decode at h
  repeat' split at h
  all_goals cases h
  all_goals simp_all [Instr.opcode]

/-- A packet that decodes to a command lies in that command's row of the opcode map (R93). -/
theorem matches_row_of_decode {p : Packet} {i : Instr} (h : decode p = .command i) :
    p.w0 &&& rowMask i = rowMatch i := by
  obtain ⟨hz, hop, hflags⟩ := fields_of_decode h
  cases i with
  | modulate a w h c f => exact (matches_flagMask_iff (by decide)).2 ⟨hz, hop⟩
  | init w h a | resize w h a | reset | decode n =>
    exact (matches_fullMask_iff (by decide)).2 ⟨hz, hop, hflags.resolve_left (by simp [Instr.opcode])⟩

/-! ### No two rows share a word -/

/-- The rows of the opcode map, each as its match and its mask (R93). -/
def opcodeRows : List (Word × Word) :=
  [(0x00000001, 0xFFFFFFFF), (0x00000002, 0xFFFFFFFF), (0x00000003, 0xFFFFFFFF), (0x00000004, 0xFFFFFCFF),
    (0x00000005, 0xFFFFFFFF)]

/-- Every row's mask covers the opcode byte, so a word of the row has the opcode byte of its match. -/
theorem lowByte_of_matches_row {w0 : Word} {r : Word × Word} (hr : r ∈ opcodeRows) (h : w0 &&& r.2 = r.1) :
    w0.extractLsb' 0 8 = r.1.extractLsb' 0 8 := by
  have covers : ∀ r ∈ opcodeRows, r.2.extractLsb' 0 8 = BitVec.allOnes 8 := by
    simp [opcodeRows]
  rw [← h, BitVec.extractLsb'_and, covers r hr, BitVec.and_allOnes]

/-- The rows of the opcode map differ in their opcode bytes. -/
theorem opcodeRows_lowByte_nodup : (opcodeRows.map fun r => r.1.extractLsb' 0 8).Nodup := by decide

/-- No word matches two rows of the opcode map: two such rows would have the same opcode byte (R93). -/
theorem length_matching_rows_le_one (w0 : Word) :
    (opcodeRows.filter fun r => w0 &&& r.2 = r.1).length ≤ 1 := by
  have sameByte : ∀ b ∈ (opcodeRows.filter fun r => w0 &&& r.2 = r.1).map (fun r => r.1.extractLsb' 0 8),
      b = w0.extractLsb' 0 8 := by
    simp only [List.mem_map, List.mem_filter, decide_eq_true_eq]
    rintro _ ⟨r, ⟨hr, h⟩, rfl⟩
    exact (lowByte_of_matches_row hr h).symm
  have distinct : ((opcodeRows.filter fun r => w0 &&& r.2 = r.1).map fun r => r.1.extractLsb' 0 8).Nodup :=
    opcodeRows_lowByte_nodup.sublist (List.filter_sublist.map _)
  rw [List.eq_replicate_of_mem sameByte, List.nodup_replicate, List.length_map] at distinct
  exact distinct

/-! ### The claims -/

/-- Settles O2: each row by the decoder's law for it one way and `matches_row_of_decode` the other. -/
theorem opcodeMapSelectsCommand : Obligations.OpcodeMapSelectsCommand := by
  refine ⟨fun p => ⟨?init, ?resize, ?reset, ?modulate, ?decode⟩, length_matching_rows_le_one⟩
  case init => exact ⟨decode_of_matches_init, matches_row_of_decode⟩
  case resize => exact ⟨decode_of_matches_resize, matches_row_of_decode⟩
  case reset => exact ⟨decode_of_matches_reset, matches_row_of_decode⟩
  case modulate => exact ⟨decode_of_matches_modulate, matches_row_of_decode⟩
  case decode => exact ⟨decode_of_matches_decode, matches_row_of_decode⟩

/-- Settles O3: both packets lie in the row of RESET, or of DECODE, and the row's command names none of the ignored
words. -/
theorem ignoredWordsHaveNoEffect : Obligations.IgnoredWordsHaveNoEffect := by
  intro w0 w1 w2 w3 v1 v2 v3
  refine ⟨fun h => ?reset, fun h => ?decode⟩
  case reset =>
    obtain rfl : w0 = 3 := BitVec.eq_of_toNat_eq h
    rw [decode_resetHead, decode_resetHead]
  case decode =>
    obtain rfl : w0 = 5 := BitVec.eq_of_toNat_eq h
    rw [decode_decodeHead, decode_decodeHead]

end Sys2Proof

/-! PROOFS. The Device State commands RESIZE and RESET (R123 to R125). First what each command does behind its checks and
what a DECODE that finds its whole output buffer mapped leaves, then the claims. -/

namespace Sys2Proof.Machine

/-! ### Behind the checks -/

theorem deviceReady_iff {s : State} : DeviceReady s ↔ Idle s ∧ s.ready = true := and_assoc.symm

/-- On an idle, unfaulted block before INIT a command that needs the Device records F_NOT_READY and nothing else (R299). -/
theorem gate_before_init {s : State} (hs : Idle s) (hd : s.ready = false) (body : State → State) :
    gate true s body = .next { s with fault := true, fcode := 2 } := by
  obtain ⟨hf, hr⟩ := hs
  rw [gate_notReady hf hr hd, raiseFault_idle ⟨hf, hr⟩]
  rfl

/-- On an idle, unfaulted, ready block a command that needs the Device runs (R120). -/
theorem gate_ready {s : State} (hs : DeviceReady s) (body : State → State) : gate true s body = .next (body s) := by
  obtain ⟨hf, hr, hd⟩ := hs
  exact gate_runs hf hr fun _ => hd

/-- RESIZE with good dimensions binds the output (R123). -/
theorem exec_resize_ready {s : State} {w h : Nat} (hs : DeviceReady s) (hg : GoodDims s w h) (p : Nat) :
    exec (.resize w h p) s = .next (bindOutput w h p s) := by
  rw [exec_resize, gate_ready hs, badDims_eq_false.2 hg, if_neg (by decide)]

/-- RESIZE with a bad dimension records F_BAD_GEOMETRY and nothing else (R123, R293). -/
theorem exec_resize_badDims {s : State} {w h : Nat} (hs : DeviceReady s) (hg : ¬ GoodDims s w h) (p : Nat) :
    exec (.resize w h p) s = .next { s with fault := true, fcode := 3 } := by
  have bad : badDims s w h = true := (Bool.not_eq_false _).mp (mt badDims_eq_false.1 hg)
  obtain ⟨idle, -⟩ := deviceReady_iff.1 hs
  rw [exec_resize, gate_ready hs, bad, if_pos rfl, raiseFault_idle idle]
  rfl

/-! ### Rebinding the output -/

/-- The last binding counts (R125). -/
theorem bindOutput_bindOutput (w h p w' h' p' : Nat) (s : State) :
    bindOutput w h p (bindOutput w' h' p' s) = bindOutput w h p s := rfl

/-- An address that fits its register is the first cell of the buffer it is bound to (R31). -/
theorem bindOutput_outBase_toNat {p : Nat} (hp : p < 2 ^ 32) (w h : Nat) (s : State) :
    (bindOutput w h p s).outBase.toNat = p := by
  rw [bindOutput_outBase, BitVec.toNat_ofNat, Nat.mod_eq_of_lt hp]

/-- A buffer whose cells are mapped is an output buffer a DECODE can write once it is bound (R298). -/
theorem outputMapped_bindOutput {s : State} {w h p : Nat} (hp : p < 2 ^ 32)
    (hm : ∀ i < w * h, s.mapped (p + i) = true) : OutputMapped (bindOutput w h p s) := by
  intro i hi
  rw [bindOutput_outBase_toNat hp]
  exact hm i hi

/-! ### A DECODE with its output buffer mapped -/

/-- What a DECODE leaves when every output cell is mapped: the results of its stages, and every output cell written
(R180, R255). -/
def decodedState (noise : Nat) (s : State) : State :=
  { storeStages (decodeStages noise s) s with pix := writeOutput s (fun _ => true) (decodeStages noise s).cell }

/-- The next state of a DECODE on a ready block whose output cells are mapped (R180). -/
theorem exec_decode_mapped {s : State} (hs : DeviceReady s) (hm : OutputMapped s) (noise : Nat) :
    exec (.decode noise) s = .next (decodedState noise s) := by
  rw [exec_decode_ready hs]
  rcases decodeBy_cases (quietAccess s) noise s with ⟨-, e⟩ | ⟨unmapped, -⟩
  · rw [e]
    rfl
  · rw [outputMapped_quiet.2 hm] at unmapped
    cases unmapped

/-- The raw-input buffer a DECODE leaves reads back as the samples of its stages (R62). -/
theorem rawSignal_decodedState (noise : Nat) (s : State) :
    rawSignal (decodedState noise s) = (decodeStages noise s).raw :=
  rawSignal_of_raw rfl

/-- A DECODE writes cell `i` of the output buffer with the value its stages computed for it (R255). -/
theorem pixel_decodedState (noise : Nat) {s : State} {i : Nat} (hi : i < s.outw * s.outh) :
    (decodedState noise s).pixel (s.outBase.toNat + i) = (decodeStages noise s).cell i := by
  have listed : findCell (decodedState noise s).pix (s.outStart + i) = some ((decodeStages noise s).cell i) := by
    have inside : s.outStart ≤ s.outStart + i ∧ s.outStart + i < s.outStart + s.outCells ∧ true = true :=
      ⟨Nat.le_add_right _ _, Nat.add_lt_add_left hi _, rfl⟩
    rw [decodedState, findCell_writeOutput, if_pos inside, Nat.add_sub_cancel_left]
  exact congrArg (Option.getD · _) listed

/-- Cell `oy·w + ox` of the output buffer holds picture column `ox·736 / w` of picture line `oy·240 / h` (R254). -/
theorem outputPixel_at (raw : Nat → Int) (start : Nat → Nat) (c : Calibration) (bloomEn : Bool) {w ox : Nat}
    (hox : ox < w) (h oy : Nat) :
    outputPixel raw start c bloomEn w h (oy * w + ox)
      = packPixel (lineColumn raw c bloomEn (start (21 + oy * 240 / h)) (ox * 736 / w)) := by
  have row : (oy * w + ox) / w = oy := by
    rw [Nat.mul_comm, Nat.mul_add_div (by omega), Nat.div_eq_of_lt hox, Nat.add_zero]
  have col : (oy * w + ox) % w = ox := by
    rw [Nat.mul_comm, Nat.mul_add_mod, Nat.mod_eq_of_lt hox]
  unfold outputPixel pictureLine pictureColumn
  rw [row, col]

/-- After a DECODE cell `oy·w + ox` of the output buffer holds its pixel of the picture, a function of the raw-input buffer
the DECODE wrote, the counters it found and the calibration (R240, R254, R255). -/
theorem pixel_decodedState_at (noise : Nat) {s : State} {oy ox : Nat} (hoy : oy < s.outh) (hox : ox < s.outw) :
    (decodedState noise s).pixel (s.outBase.toNat + oy * s.outw + ox)
      = packPixel (lineColumn (rawSignal (decodedState noise s)) s.cal s.params.bloomEn
          (lineStart s.hsync s.vsync (runScan (rawSignal (decodedState noise s)) s.hsync s.vsync)
            (21 + oy * 240 / s.outh)) (ox * 736 / s.outw)) := by
  have hi : oy * s.outw + ox < s.outw * s.outh := by
    rw [Nat.mul_comm oy, Nat.mul_comm s.outw s.outh]
    exact Nat.mul_add_lt_mul_of_lt_of_lt hoy hox
  obtain ⟨-, -, cell⟩ := decodeStages_results noise s
  rw [Nat.add_assoc, pixel_decodedState noise hi, cell, rawSignal_decodedState, outputPixel_at _ _ _ _ hox]

/-! ### The claims -/

/-- Settles O10: the three outcomes of the checks, in their order. -/
theorem resizeRebindsOnly : Obligations.ResizeRebindsOnly := by
  intro s w h p hs
  refine ⟨fun hd hg => ?bound, fun hd hg => ?badGeometry, fun hd => ?notReady⟩
  case bound => exact exec_resize_ready (deviceReady_iff.2 ⟨hs, hd⟩) hg p
  case badGeometry => exact exec_resize_badDims (deviceReady_iff.2 ⟨hs, hd⟩) hg p
  case notReady => rw [exec_resize, gate_before_init hs hd]

/-- Settles O11: the state after either RESIZE is `bindOutput w h p s`, again a ready block, and its output buffer is the
mapped one, so the DECODE writes every cell of it. -/
theorem resizeIdempotentThenDecodes : Obligations.ResizeIdempotentThenDecodes := by
  intro s w h p hs hg hp
  have ready : DeviceReady (bindOutput w h p s) := hs
  refine ⟨bindOutput w h p s, exec_resize_ready hs hg p, ?again, rfl, rfl, fun hm noise => ?decoded⟩
  case again => rw [exec_resize_ready ready hg, bindOutput_bindOutput]
  case decoded =>
    have ⟨unfaulted, _, _⟩ := ready
    refine ⟨decodedState noise (bindOutput w h p s), exec_decode_mapped ready (outputMapped_bindOutput hp hm) noise,
      unfaulted, rfl, rfl, fun oy hoy ox hox => ?_⟩
    have written := pixel_decodedState_at noise (s := bindOutput w h p s) hoy hox
    rwa [bindOutput_outBase_toNat hp] at written

/-- Settles O12: the two outcomes of the gate. -/
theorem resetRestoresCalibrationOnly : Obligations.ResetRestoresCalibrationOnly := by
  intro s hs
  refine ⟨fun hd => ?restored, fun hd => ?notReady⟩
  case restored =>
    rw [exec_reset, gate_ready (deviceReady_iff.2 ⟨hs, hd⟩)]
    rfl
  case notReady => rw [exec_reset, gate_before_init hs hd]

end Sys2Proof.Machine

/-! PROOFS. Command DECODE and its noise stage (R180, R181, R184, R255). First what the noise stage makes of a sample, said
in plain arithmetic, and what every DECODE stores of it; then what a DECODE leaves in place; then the claims. -/

namespace Sys2Proof.Machine

/-! ### The noise stage in plain arithmetic -/

/-- `bits[23:16]` of a generator word, by division (R184). -/
theorem rngByte_eq_div_mod (r : Word) : rngByte r = (r.toNat / 65536 % 256 : Nat) := by
  rw [rngByte, BitVec.extractLsb'_toNat, Nat.shiftRight_eq_div_pow]

/-- An analog sample, perturbed and brought into [−127, 127] (R184). -/
theorem noisySample_eq_max_min (noise : Nat) (r : Word) (a : Int) :
    noisySample noise r a
      = max (-127) (min 127 (a + (((r.toNat / 65536 % 256 : Nat) : Int) - 127) * (noise : Int) / 256)) := by
  rw [noisySample, clamp_eq_max_min (by decide), deviation, rngByte_eq_div_mod]
  rfl

/-! ### What every DECODE stores, with its output buffer mapped or not -/

/-- The generator behind the gate: one step per cell of the buffer, on both outcomes (R184, R298). -/
theorem decodeBy_rng (acc : PixAccess) (noise : Nat) (s : State) :
    (decodeBy acc noise s).rng = rngAfter bufLen s.rng := by
  rcases decodeBy_cases acc noise s with ⟨-, mapped⟩ | ⟨-, unmapped⟩
  · rw [mapped, ← decodeStages_rng noise s]
    rfl
  · rw [unmapped, raiseFault_rng, ← decodeStages_rng noise s]
    rfl

/-- The raw-input buffer behind the gate: the samples of the noise stage, on both outcomes (R180, R298). -/
theorem decodeBy_raw (acc : PixAccess) (noise : Nat) (s : State) :
    (decodeBy acc noise s).raw = SampleBuf.ofFn (decodeStages noise s).raw := by
  rcases decodeBy_cases acc noise s with ⟨-, mapped⟩ | ⟨-, unmapped⟩
  · rw [mapped]
    rfl
  · rw [unmapped, raiseFault_raw]
    rfl

/-- Cell `k` of the raw-input buffer a DECODE leaves is the analog sample perturbed with the generator's word `k + 1`; no
sample is lost in the 8-bit cell (R184). -/
theorem decodeBy_raw_get (acc : PixAccess) (noise : Nat) (s : State) (d : Nat) {k : Nat} (hk : k < bufLen) :
    ((decodeBy acc noise s).raw.get d k).toInt
      = noisySample noise (rngAfter (k + 1) s.rng) (s.analog.get s.draws k).toInt := by
  have sample := decodeStages_raw noise s hk
  obtain ⟨lower, upper⟩ := noisySample_range noise (rngAfter (k + 1) s.rng) (s.analog.get s.draws k).toInt
  rw [decodeBy_raw, SampleBuf.get_ofFn_toInt _ _ hk (by omega) (by omega), sample]

/-! ### What a DECODE with its output buffer mapped leaves -/

/-- The new counters are those of the scan of the raw-input buffer the DECODE wrote (R180, R214, R215). -/
theorem decodedState_counters (noise : Nat) (s : State) :
    let track := runScan (rawSignal (decodedState noise s)) s.hsync s.vsync
    (decodedState noise s).hsync = newHsync s.hsync track ∧ (decodedState noise s).vsync = newVsync s.vsync track := by
  rw [rawSignal_decodedState]
  obtain ⟨hsync, vsync, -⟩ := decodeStages_results noise s
  exact ⟨hsync, vsync⟩

/-- A pixel cell outside the output buffer keeps its value (R181). -/
theorem pixel_decodedState_outside (noise : Nat) {s : State} {a : Nat}
    (ha : ¬ (s.outBase.toNat ≤ a ∧ a < s.outBase.toNat + s.outw * s.outh)) :
    (decodedState noise s).pixel a = s.pixel a := by
  have unlisted : findCell (decodedState noise s).pix a = findCell s.pix a := by
    rw [decodedState, findCell_writeOutput, if_neg fun ⟨above, below, _⟩ => ha ⟨above, below⟩]
  exact congrArg (Option.getD · _) unlisted

/-! ### The claims -/

/-- Settles O23: the next state is `decodedState`; its fields, its output cells and the cells outside are those of the laws
above. -/
theorem decodeWritesFullFrame : Obligations.DecodeWritesFullFrame := by
  intro s noise hs hm
  have ⟨hsync, vsync⟩ := decodedState_counters noise s
  refine ⟨decodedState noise s, exec_decode_mapped hs hm noise, rfl, SampleBuf.ofFn_fill _, SampleBuf.ofFn_wf _,
    ⟨hsync, vsync, fun oy hoy ox hox => ?written⟩, fun a ha => ?outside⟩
  case written => exact pixel_decodedState_at noise hoy hox
  case outside => exact pixel_decodedState_outside noise ha

/-- Settles O25: behind the gate both outcomes of a DECODE store the generator and the samples of the noise stage, and its
generator is the iterate of one step. -/
theorem decodeNoiseStage : Obligations.DecodeNoiseStage := by
  intro s noise hs
  refine ⟨_, exec_decode_ready hs noise, ?generator, fun d k hk => ?cell⟩
  case generator => rw [decodeBy_rng, rngAfter_eq_iterate, bufLen_eq]
  case cell => rw [decodeBy_raw_get _ _ _ _ (bufLen_eq ▸ hk), noisySample_eq_max_min, rngAfter_eq_iterate]

end Sys2Proof.Machine

/-! PROOFS. The sync tracker with no sync to follow (R217): the trackers such a scan runs through, in closed form; what one
sample makes of them; the whole scan; then the claim. -/

namespace Sys2Proof.Machine

/-! ### The free-running tracker -/

/-- The tracker that has met no low sample and has resolved `m` lines, all of them by timeout. -/
def freeRun (m : Nat) : Tracker :=
  { trackerStart with hnext := 21 + 910 * m, m := m, edges := (List.range m).map fun i : Nat => 21 + 910 * (i : Int) }

/-- The lines a free-running scan has resolved before scan index `j`: line `i` is due at index `36 + 910·i`. -/
def linesDue (j : Nat) : Nat := (j + 873) / 910

theorem trackerStart_eq_freeRun : trackerStart = freeRun 0 := rfl

@[simp] theorem freeRun_m (m : Nat) : (freeRun m).m = m := rfl

@[simp] theorem freeRun_hnext (m : Nat) : (freeRun m).hnext = 21 + 910 * m := rfl

theorem freeRun_edges_getD {m i : Nat} (h : i < m) : (freeRun m).edges.getD i 0 = 21 + 910 * (i : Int) := by
  simp [freeRun, h]

/-- One more line resolved where it was expected, with everything else kept. -/
theorem freeRun_succ (m : Nat) :
    freeRun (m + 1) = { freeRun m with
      edges := (freeRun m).edges ++ [(freeRun m).hnext], m := (freeRun m).m + 1, hnext := (freeRun m).hnext + hres } := by
  have hnext : (21 + 910 * (m + 1 : Nat) : Int) = 21 + 910 * m + 910 := by omega
  simp only [freeRun, List.range_succ, List.map_append, List.map_cons, List.map_nil, hnext]
  rfl

/-! ### One sample -/

/-- A high sample on a high debounced level, with no run pending, changes nothing (R204). -/
theorem slice_of_high {x : Int} {t : Tracker} (hx : -20 ≤ x) (hl : t.lvl = false) (hr : t.run = 0) (j : Nat) :
    slice x j t = t := by
  have high : decide (x < tSync) = false := decide_eq_false (not_lt.2 hx)
  obtain ⟨⟩ := t
  subst hl hr
  simp [slice, high]

/-- A line not yet due is left alone (R210). -/
theorem timeout_early {j : Nat} {t : Tracker} (h : (j : Int) < t.hnext + 15) : timeout j t = t :=
  if_neg fun due => absurd due.2 (by omega)

/-- A line that is due in SEARCHING_H is resolved where it was expected, and no miss is counted (R210). -/
theorem timeout_due_searchingH {j : Nat} {t : Tracker} (hst : t.st = .searchingH) (hm : t.m < nl)
    (h : t.hnext + 15 ≤ (j : Int)) :
    timeout j t = { t with edges := t.edges ++ [t.hnext], m := t.m + 1, hnext := t.hnext + hres } := by
  rw [timeout, if_pos ⟨hm, h⟩]
  exact if_neg (not_not_intro hst)

/-- One high sample takes the free-running tracker from the lines due before `j` to those due before `j + 1`. -/
theorem scanStep_freeRun {x : Int} {j : Nat} (hx : -20 ≤ x) (hm : linesDue j < 270) :
    scanStep x j (freeRun (linesDue j)) = freeRun (linesDue (j + 1)) := by
  rw [scanStep, slice_of_high hx rfl rfl]
  by_cases due : 36 + 910 * linesDue j ≤ j
  · have oneMore : linesDue (j + 1) = linesDue j + 1 := by unfold linesDue at *; omega
    rw [timeout_due_searchingH rfl hm (by rw [freeRun_hnext]; omega), oneMore, freeRun_succ]
  · have same : linesDue (j + 1) = linesDue j := by unfold linesDue at *; omega
    rw [timeout_early (by rw [freeRun_hnext]; omega), same]

/-! ### The whole scan -/

/-- A free-running scan with samples enough left for line 269, which is due at index 244826, ends with all 270 lines
resolved by timeout. -/
theorem scan_freeRun {x : Nat → Int} (hx : ∀ j, -20 ≤ x j) (fuel : Nat) :
    ∀ j, linesDue j ≤ 270 → 244827 ≤ j + fuel → scan x fuel j (freeRun (linesDue j)) = freeRun 270 := by
  induction fuel with
  | zero =>
    intro j hle henough
    have all : linesDue j = 270 := by unfold linesDue at *; omega
    rw [all, scan]
  | succ fuel ih =>
    intro j hle henough
    rw [scan, freeRun_m]
    split
    case isTrue hlt =>
      have hlt : linesDue j < 270 := hlt
      rw [scanStep_freeRun (hx j) hlt]
      exact ih (j + 1) (by unfold linesDue at *; omega) (by omega)
    case isFalse hge => rw [le_antisymm hle (not_lt.1 hge)]

/-- The scan of a buffer with no low sample, whatever the counters (R217). -/
theorem runScan_of_no_low {raw : Nat → Int} (h : ∀ k < bufLen, -20 ≤ raw k) (hs0 vs0 : Nat) :
    runScan raw hs0 vs0 = freeRun 270 := by
  have high (j : Nat) : -20 ≤ raw ((scanOrigin hs0 vs0 + j) % bufLen) := h _ (Nat.mod_lt _ (by decide))
  unfold runScan
  rw [trackerStart_eq_freeRun]
  exact scan_freeRun high scanBound 0 (by decide) (by decide)

/-! ### The counters and the line table -/

/-- With the last line where it was expected there is no drift (R214). -/
theorem newHsync_freeRun {hs0 : Nat} (h : hs0 < 910) : newHsync hs0 (freeRun 270) = hs0 := by
  rw [newHsync, freeRun_hnext, hres]
  omega

/-- With no boundary found the vertical counter stays (R215). -/
theorem newVsync_freeRun (vs0 m : Nat) : newVsync vs0 (freeRun m) = vs0 := rfl

/-- The line table is the nominal grid offset by the two counters (R213, R217). -/
theorem lineStart_freeRun (hs0 vs0 : Nat) {n : Nat} (h : n < 262) :
    lineStart hs0 vs0 (freeRun 270) n = ((vs0 + n) % 262 * 910 + hs0) % 238420 := by
  have line : n + pre < 270 := Nat.add_lt_add_right h 8
  rw [lineStart, freeRun_edges_getD line, scanOrigin, wrapIndex_eq, wrapIndex_eq]
  push_cast
  omega

/-! ### The claim -/

/-- Settles O29: the scan ends in the free-running tracker with 270 lines, and each clause is read off it. -/
theorem noSyncFallsBackToNominal : Obligations.NoSyncFallsBackToNominal := by
  intro raw hs0 vs0 hh _ hraw
  rw [runScan_of_no_low (bufLen_eq ▸ hraw)]
  exact ⟨rfl, rfl, fun m hm => freeRun_edges_getD hm, newHsync_freeRun hh, newVsync_freeRun vs0 270,
    fun n hn => lineStart_freeRun hs0 vs0 hn⟩

end Sys2Proof.Machine

/-! PROOFS. Faults (R290 to R301). First which packets carry a command, then the causes a packet, a command and the sample
port record, then the block that has a fault recorded, then the claims. -/

namespace Sys2Proof

/-! ### The packets that carry a command -/

theorem Packet.op_eq_mod (p : Packet) : p.op = p.w0.toNat % 256 := by
  rw [op, BitVec.extractLsb'_toNat, Nat.shiftRight_zero]

theorem Packet.reserved_eq_div (p : Packet) : p.reserved = p.w0.toNat / 1024 := by
  have hlt := p.w0.isLt
  rw [reserved, BitVec.extractLsb'_toNat, Nat.shiftRight_eq_div_pow]
  omega

theorem Packet.flagC_eq_false {p : Packet} : p.flagC = false ↔ p.w0.toNat / 256 % 2 ≠ 1 := by
  simp [flagC, BitVec.getLsbD, Nat.testBit_eq_decide_div_mod_eq]

theorem Packet.flagF_eq_false {p : Packet} : p.flagF = false ↔ p.w0.toNat / 512 % 2 ≠ 1 := by
  simp [flagF, BitVec.getLsbD, Nat.testBit_eq_decide_div_mod_eq]

/-- The packets that decode to a command: no reserved bit, an opcode of the map, a flag only for MODULATE (R95). -/
theorem exists_command_iff {p : Packet} :
    (∃ i, decode p = .command i)
      ↔ p.reserved = 0 ∧ (1 ≤ p.op ∧ p.op ≤ 5) ∧ (p.op = 4 ∨ p.flagC = false ∧ p.flagF = false) := by
  constructor
  · rintro ⟨i, h⟩
    obtain ⟨hz, hop, hflags⟩ := fields_of_decode h
    have inMap : 1 ≤ i.opcode ∧ i.opcode ≤ 5 := by cases i <;> simp [Instr.opcode]
    rw [hop]
    exact ⟨hz, inMap, hflags⟩
  · rintro ⟨hz, ⟨h1, h5⟩, hflags⟩
    by_cases modulate : p.op = 4
    · simp [decode, hz, modulate]
    · obtain ⟨hc, hf⟩ := hflags.resolve_left modulate
      have row : p.op = 1 ∨ p.op = 2 ∨ p.op = 3 ∨ p.op = 5 := by omega
      rcases row with hop | hop | hop | hop <;> simp [decode, hz, hop, hc, hf]

/-- The decoder answers one of its two forms (R97). -/
theorem illegal_of_not_command {p : Packet} (h : ¬ ∃ i, decode p = .command i) : ∃ why, decode p = .illegal why := by
  cases hd : decode p with
  | command i => exact absurd ⟨i, hd⟩ h
  | illegal why => exact ⟨why, rfl⟩

end Sys2Proof

namespace Sys2Proof.Machine

/-! ### Packets -/

theorem perform_command (p : Packet) (s : State) : perform (.command p) s = onPacket p s exec := rfl

theorem perform_start (p : Packet) (s : State) : perform (.start p) s = startPacket p s := rfl

/-- On an idle, unfaulted block an illegal packet records F_ILLEGAL_CMD and nothing else (R292). -/
theorem onPacket_illegal {p : Packet} {s : State} (hs : Idle s) (h : ∃ why, decode p = .illegal why)
    (go : Instr → State → Out) : onPacket p s go = .next { s with fault := true, fcode := 1 } := by
  obtain ⟨why, hd⟩ := h
  have e : onPacket p s go = .next (raiseFault .illegalCmd s) := by
    obtain ⟨hf, hr⟩ := hs
    simpa [hf, hr, hd] using onPacket_cases p s go
  rw [e, raiseFault_idle hs]
  rfl

/-! ### Bad dimensions -/

theorem not_goodDims_iff {s : State} {w h : Nat} :
    ¬ GoodDims s w h ↔ w = 0 ∨ s.params.maxDim < w ∨ h = 0 ∨ s.params.maxDim < h := by omega

theorem badDims_eq_true {s : State} {w h : Nat} : badDims s w h = true ↔ ¬ GoodDims s w h := by
  rw [GoodDims, ← badDims_eq_false, Bool.not_eq_false]

/-- INIT with a bad dimension records F_BAD_GEOMETRY and nothing else, on a ready block or not (R121, R293). -/
theorem exec_init_badDims {s : State} {w h : Nat} (hs : Idle s) (hg : ¬ GoodDims s w h) (p : Nat) :
    exec (.init w h p) s = .next { s with fault := true, fcode := 3 } := by
  obtain ⟨hf, hr⟩ := hs
  rw [exec_init, gate_runs (n := false) hf hr nofun, badDims_eq_true.2 hg, if_pos rfl, raiseFault_idle ⟨hf, hr⟩]
  rfl

/-- MODULATE with a bad dimension records F_BAD_IMAGE and nothing else (R294). -/
theorem exec_modulate_badDims {s : State} {w h : Nat} (hs : DeviceReady s) (hg : ¬ GoodDims s w h) (p : Nat)
    (c f : Bool) : exec (.modulate p w h c f) s = .next { s with fault := true, fcode := 4 } := by
  have idle : Idle s := (deviceReady_iff.1 hs).1
  have e : modulateBy (quietAccess s) p w h c f s = raiseFault .badImage s := by
    simpa [badDims_eq_true.2 hg] using modulateBy_cases (quietAccess s) p w h c f s
  rw [exec_modulate, gate_ready hs, e, raiseFault_idle idle]
  rfl

/-! ### The sample port -/

theorem perform_anaRead (k : Nat) (s : State) : perform (.anaRead k) s = .next (anaRead k s) := rfl

theorem perform_rawRead (k : Nat) (s : State) : perform (.rawRead k) s = .next (rawRead k s) := rfl

theorem perform_anaWrite (k : Nat) (v : Sample) (s : State) :
    perform (.anaWrite k v) s = .next (anaWrite k v s) := rfl

/-- The sample a port index reads as does not depend on the transactions still to come. -/
theorem anaValue_events (s : State) (es : List Event) (k : Nat) : anaValue { s with events := es } k = anaValue s k := rfl

theorem rawValue_events (s : State) (es : List Event) (k : Nat) : rawValue { s with events := es } k = rawValue s k := rfl

/-- A read of the analog buffer answers `anaValue` and changes nothing of the block (R64). -/
theorem step_anaRead {s : State} {k : Nat} {rest : List Event} (h : s.events = .anaRead k :: rest) :
    step s = .next { s with events := rest, reply := some (.sample (anaValue s k)), draws := s.draws + 1 } := by
  rw [step_of_events h, perform_anaRead, anaRead, anaValue_events]
  rfl

/-- A read of the raw-input buffer answers `rawValue` and changes nothing of the block (R64). -/
theorem step_rawRead {s : State} {k : Nat} {rest : List Event} (h : s.events = .rawRead k :: rest) :
    step s = .next { s with events := rest, reply := some (.sample (rawValue s k)), draws := s.draws + 1 } := by
  rw [step_of_events h, perform_rawRead, rawRead, rawValue_events]
  rfl

/-- A step on a sample-port write is the write on the block with the later transactions still to come (R64). -/
theorem step_anaWrite {s : State} {k : Nat} {v : Sample} {rest : List Event} (h : s.events = .anaWrite k v :: rest) :
    step s = .next (anaWrite k v { s with events := rest }) := by
  rw [step_of_events h, perform_anaWrite]

/-- Outside the buffer a read answers a free value (R65). -/
theorem anaValue_outside (s : State) {k : Nat} (hk : bufLen ≤ k) : anaValue s k = Config.freeSample s.draws k := by
  simp [anaValue, hk]

theorem rawValue_outside (s : State) {k : Nat} (hk : bufLen ≤ k) : rawValue s k = Config.freeSample s.draws k := by
  simp [rawValue, hk]

/-- Before INIT the analog buffer reads as free values (R64, U3). -/
theorem anaValue_before_init {s : State} (hd : s.ready = false) (k : Nat) :
    anaValue s k = Config.freeSample s.draws k := by
  simp [anaValue, hd]

/-- Inside the buffer an idle, ready block answers the cell of the analog buffer (R64). -/
theorem anaValue_ready {s : State} (hr : s.running = none) (hd : s.ready = true) {k : Nat} (hk : k < bufLen) :
    anaValue s k = s.analog.get s.draws k := by
  simp [anaValue, hd, busy_eq_false.2 hr, hk]

/-- Inside the buffer an idle block answers the cell of the raw-input buffer, ready or not (R64). -/
theorem rawValue_idle {s : State} (hr : s.running = none) {k : Nat} (hk : k < bufLen) :
    rawValue s k = s.raw.get s.draws k := by
  simp [rawValue, busy_eq_false.2 hr, hk]

/-- An unspecified raw-input buffer reads as free values, inside its range and outside (R65, R335). -/
theorem rawValue_open {s : State} (h : s.raw = SampleBuf.open) (k : Nat) :
    rawValue s k = Config.freeSample s.draws k := by
  unfold rawValue
  rw [h, SampleBuf.open_get, ite_self]

/-- After a fault a sample-port write is ignored (R297). -/
theorem anaWrite_faulted {s : State} (hf : s.fault = true) (k : Nat) (v : Sample) : anaWrite k v s = s := by
  simpa [hf] using anaWrite_cases k v s

/-- On an idle, unfaulted block before INIT a sample-port write records F_NOT_READY and nothing else, whatever its index
(R295, R299). -/
theorem anaWrite_before_init {s : State} (hs : Idle s) (hd : s.ready = false) (k : Nat) (v : Sample) :
    anaWrite k v s = { s with fault := true, fcode := 2 } := by
  have e : anaWrite k v s = raiseFault .notReady s := by
    obtain ⟨hf, hr⟩ := hs
    simpa [hf, hr, hd] using anaWrite_cases k v s
  rw [e, raiseFault_idle hs]
  rfl

/-- On an idle, unfaulted, ready block a sample-port write outside the buffer records F_BAD_INDEX and nothing else
(R301). -/
theorem anaWrite_outside {s : State} (hs : DeviceReady s) {k : Nat} (hk : bufLen ≤ k) (v : Sample) :
    anaWrite k v s = { s with fault := true, fcode := 7 } := by
  have e : anaWrite k v s = raiseFault .badIndex s := by
    obtain ⟨hf, hr, hd⟩ := hs
    simpa [hf, hr, hd, hk, Nat.not_lt.2 hk] using anaWrite_cases k v s
  rw [e, raiseFault_idle (deviceReady_iff.1 hs).1]
  rfl

/-! ### Commands before INIT -/

/-- On an idle, unfaulted block before INIT every other command records F_NOT_READY and nothing else (R299). -/
theorem exec_before_init {s : State} (hs : Idle s) (hd : s.ready = false) {i : Instr}
    (hi : ∀ w h p, i ≠ .init w h p) : exec i s = .next { s with fault := true, fcode := 2 } := by
  cases i with
  | init w h p => exact absurd rfl (hi w h p)
  | resize w h p => rw [exec_resize, gate_before_init hs hd]
  | reset => rw [exec_reset, gate_before_init hs hd]
  | modulate p w h c f => rw [exec_modulate, gate_before_init hs hd]
  | decode n => rw [exec_decode, gate_before_init hs hd]

/-! ### The faulted block -/

/-- After a fault a packet is ignored, whatever it holds (R297). -/
theorem onPacket_faulted {s : State} (hf : s.fault = true) (p : Packet) (go : Instr → State → Out) :
    onPacket p s go = .next s := by
  simpa [hf] using onPacket_cases p s go

/-- Whether or not the host waits for its completion, a packet after a fault is ignored (R297). -/
theorem perform_packet_faulted {s : State} (hf : s.fault = true) (p : Packet) :
    perform (.command p) s = .next s ∧ perform (.start p) s = .next s := by
  rw [perform_command, perform_start, startPacket]
  exact ⟨onPacket_faulted hf p _, onPacket_faulted hf p _⟩

/-- After a fault no command has an effect (R297). -/
theorem exec_faulted {s : State} (hf : s.fault = true) (i : Instr) : exec i s = .next s := by
  cases i with
  | init w h p => rw [exec_init, gate_faulted hf]
  | resize w h p => rw [exec_resize, gate_faulted hf]
  | reset => rw [exec_reset, gate_faulted hf]
  | modulate p w h c f => rw [exec_modulate, gate_faulted hf]
  | decode n => rw [exec_decode, gate_faulted hf]

/-- After a fault a disturbed command only spends its draws (R297, R332). -/
theorem completeRaced_faulted {s : State} (hf : s.fault = true) (r : Running) :
    completeRaced r s = .next { s with draws := s.draws + 2 } := by
  have spent : ({ s with draws := s.draws + 2 } : State).fault = true := hf
  unfold completeRaced
  cases r.instr with
  | modulate p w h c f => exact gate_faulted spent
  | decode n => exact gate_faulted spent
  | init w h p => exact exec_faulted spent _
  | resize w h p => exact exec_faulted spent _
  | reset => exact exec_faulted spent _

/-- The end of a command keeps a recorded fault (R297). -/
theorem finish_keeps_fault {s t : State} (hf : s.fault = true) (h : finish s = .next t) : t.fault = true := by
  have ended : ({ s with running := none } : State).fault = true := hf
  unfold finish at h
  split at h
  · cases h
    exact hf
  · split at h
    · rw [exec_faulted ended] at h
      cases h
      exact hf
    · rw [completeRaced_faulted ended] at h
      cases h
      exact hf

/-- A host write to pixel memory does not touch the fault bit (R324). -/
theorem pixWrite_fault (a : Nat) (v : Pixel) (s : State) : (pixWrite a v s).fault = s.fault := by
  unfold pixWrite
  split <;> rfl

/-- Every transaction but power-on reset keeps a recorded fault (R297). -/
theorem perform_keeps_fault {e : Event} {s t : State} (he : e ≠ .powerOn) (hf : s.fault = true)
    (h : perform e s = .next t) : t.fault = true := by
  cases e with
  | command p =>
    cases (perform_packet_faulted hf p).1.symm.trans h
    exact hf
  | start p =>
    cases (perform_packet_faulted hf p).2.symm.trans h
    exact hf
  | finish => exact finish_keeps_fault hf h
  | regRead i | anaRead k | rawRead k | pixRead a | remap m =>
    cases h
    exact hf
  | regWrite i v =>
    cases h
    rwa [regWrite_faulted hf]
  | anaWrite k v =>
    cases h
    rwa [anaWrite_faulted hf]
  | pixWrite a v =>
    cases h
    rwa [pixWrite_fault]
  | powerOn => exact absurd rfl he

/-- A step that clears a recorded fault takes a power-on reset (R297). -/
theorem powerOn_of_step_clears_fault {s t : State} (hf : s.fault = true) (h : step s = .next t)
    (ht : t.fault = false) : ∃ rest, s.events = .powerOn :: rest := by
  cases he : s.events with
  | nil =>
    have ended : finish s = .next t := by
      rwa [step, takeTransaction, he] at h
    exact absurd (finish_keeps_fault hf ended) (by simp [ht])
  | cons e rest =>
    rw [step_of_events he] at h
    by_contra no
    have other : e ≠ .powerOn := fun reset => no ⟨rest, by rw [reset]⟩
    exact absurd (perform_keeps_fault (s := { s with events := rest }) other hf h) (by simp [ht])

/-! ### The claims -/

/-- Settles O6: the packet decodes iff it is none of the bad ones, by its fields. -/
theorem illegalPacketRecordsFault : Obligations.IllegalPacketRecordsFault := by
  intro s p rest op c f bad
  have notBad_iff : ¬ bad ↔ ∃ i, decode p = .command i := by
    rw [exists_command_iff, p.op_eq_mod, p.reserved_eq_div, Packet.flagC_eq_false, Packet.flagF_eq_false]
    omega
  refine ⟨fun hs h hbad => ?illegal, notBad_iff.1⟩
  case illegal =>
    rw [step_of_events h, perform_command]
    exact onPacket_illegal (s := { s with events := rest }) hs
      (illegal_of_not_command fun hcmd => notBad_iff.2 hcmd hbad) exec

/-- Settles O7: each transaction by its law on a faulted block, and what the reads answer by the laws of the ports. -/
theorem faultedBlockIgnoresWrites : Obligations.FaultedBlockIgnoresWrites := by
  intro s hf
  refine ⟨fun rest p h => ?packet, fun rest i v h => ?regWrite, fun rest k v h => ?anaWrite,
    fun rest i h => step_regRead h, fun rest k h => step_anaRead h, fun rest k h => step_rawRead h,
    fun hr hd hb => ⟨fun i hi => ?register, fun k hk => ?sample⟩, fun t h ht => powerOn_of_step_clears_fault hf h ht⟩
  case packet =>
    have ⟨command, start⟩ := perform_packet_faulted (s := { s with events := rest }) hf p
    rcases h with h | h
    · rw [step_of_events h, command]
    · rw [step_of_events h, start]
  case regWrite => rw [step_regWrite h, regWrite_faulted (s := { s with events := rest }) hf]
  case anaWrite => rw [step_anaWrite h, anaWrite_faulted (s := { s with events := rest }) hf]
  case register =>
    rcases Nat.eq_zero_or_pos i with rfl | pos
    · rfl
    · exact regValue_ready hr hd (scrambled_eq_false.2 fun busy => hb busy.2) pos (Nat.le_of_lt_succ hi)
  case sample =>
    have inside : k < bufLen := bufLen_eq ▸ hk
    exact ⟨anaValue_ready hr hd inside, rawValue_idle hr inside⟩

/-- Settles O13: both commands check their dimensions before they write. -/
theorem badGeometryFault : Obligations.BadGeometryFault := by
  intro s w h p hs hbad
  have notGood : ¬ GoodDims s w h := not_goodDims_iff.2 hbad
  exact ⟨exec_init_badDims hs notGood p, fun hd => exec_resize_badDims (deviceReady_iff.2 ⟨hs, hd⟩) notGood p⟩

/-- Settles O14: MODULATE checks its dimensions before it writes. -/
theorem badImageFault : Obligations.BadImageFault := by
  intro s p w h c f hs hbad
  exact exec_modulate_badDims hs (not_goodDims_iff.2 hbad) p c f

/-- Settles O15: the commands, the two kinds of write and the three kinds of read by their laws before INIT. -/
theorem notReadyFault : Obligations.NotReadyFault := by
  intro s rest hs hd
  have cold : Idle { s with events := rest } := hs
  refine ⟨fun i hi => exec_before_init hs hd hi, fun i v h3 h7 h => ?regWrite, fun k v h => ?anaWrite,
    fun i h1 h11 h => ?regRead, fun k h => ?anaRead, fun k hfill hcells h => ?rawRead⟩
  case regWrite => rw [step_regWrite h, regWrite_before_init cold hd (writableReg_eq_true.2 ⟨h3, h7⟩)]
  case anaWrite => rw [step_anaWrite h, anaWrite_before_init cold hd]
  case regRead => rw [step_regRead h, regValue_before_init hs.2 hd h1 h11]
  case anaRead => rw [step_anaRead h, anaValue_before_init hd]
  case rawRead =>
    have unspecified : s.raw = SampleBuf.open := by
      rw [SampleBuf.open, ← hfill, ← hcells]
    rw [step_rawRead h, rawValue_open unspecified]

/-- Settles O44: a write and the two reads by their laws outside the buffer. -/
theorem badIndexFault : Obligations.BadIndexFault := by
  intro s k v rest hk
  have outside : bufLen ≤ k := bufLen_eq ▸ hk
  refine ⟨fun hs h => ?write, fun h => ?read⟩
  case write => rw [step_anaWrite h, anaWrite_outside (s := { s with events := rest }) hs outside]
  case read =>
    rcases h with h | h
    · rw [step_anaRead h, anaValue_outside s outside]
    · rw [step_rawRead h, rawValue_outside s outside]

/-- Settles O45: a block with a fault recorded keeps its code, any other takes the code of R291. -/
theorem firstFaultKept : Obligations.FirstFaultKept := by
  intro s c
  unfold raiseFault
  by_cases hf : s.fault = true
  · rw [if_pos hf, if_pos hf, ← hf]
  · rw [if_neg hf, if_neg hf]
    cases c <;> rfl

end Sys2Proof.Machine

/-! PROOFS. What `RawRead` shows (R335): the raw-input buffer a DECODE leaves, that a MODULATE keeps it and that an INIT
makes it unspecified again; then the claim. -/

namespace Sys2Proof.Machine

/-! ### The raw-input buffer under DECODE, MODULATE and INIT -/

/-- A DECODE leaves no command in progress behind the gate, with its output buffer mapped or not (R180, R296). -/
theorem decodeBy_running {s : State} (hr : s.running = none) (acc : PixAccess) (noise : Nat) :
    (decodeBy acc noise s).running = none := by
  rcases decodeBy_cases acc noise s with ⟨-, mapped⟩ | ⟨-, unmapped⟩
  · rw [mapped, ← hr]
    rfl
  · rw [unmapped, raiseFault_running]

/-- MODULATE keeps the raw-input buffer behind the gate, on all its outcomes (R140, R335). -/
theorem modulateBy_raw (acc : PixAccess) (p w h : Nat) (c f : Bool) (s : State) :
    (modulateBy acc p w h c f s).raw = s.raw := by
  rcases modulateBy_cases acc p w h c f s with ⟨-, badImage⟩ | ⟨-, -, mapped⟩ | ⟨-, -, unmapped⟩
  · rw [badImage, raiseFault_raw]
  · rw [mapped]
  · rw [unmapped, raiseFault_raw]

/-- On a block with no command in progress a MODULATE keeps the raw-input buffer: it is ignored after a fault, faults before
INIT, and runs otherwise (R297, R299, R335). -/
theorem exec_modulate_raw {s t : State} (hr : s.running = none) {p w h : Nat} {c f : Bool}
    (ht : exec (.modulate p w h c f) s = .next t) : t.raw = s.raw := by
  rw [exec_modulate] at ht
  rcases gate_cases ht with ⟨-, ignored⟩ | ⟨-, busy, -⟩ | ⟨-, -, -, -, notReady⟩ | ⟨-, -, -, runs⟩
  · rw [ignored]
  · exact absurd hr busy
  · rw [notReady, raiseFault_raw]
  · rw [runs, modulateBy_raw]

/-- INIT with good dimensions binds the output, restores the calibration and creates the Device, on a ready block or not
(R121). -/
theorem exec_init_goodDims {s : State} {w h : Nat} (hs : Idle s) (hg : GoodDims s w h) (p : Nat) :
    exec (.init w h p) s = .next (createDevice (defaultCalibration (bindOutput w h p s))) := by
  obtain ⟨hf, hr⟩ := hs
  rw [exec_init, gate_runs (n := false) hf hr nofun, badDims_eq_false.2 hg, if_neg (by decide)]

/-! ### The claim -/

/-- Settles O52: the read after a DECODE by the law of the idle sample port and of the noise stage, the MODULATE by what it
keeps of a block with no command in progress, faulted or not, and the read after an INIT by the unspecified buffer it
leaves. -/
theorem rawReadShowsLastDecode : Obligations.RawReadShowsLastDecode := by
  refine ⟨fun s noise hs => ?decode, fun s w h p hs hg => ?init⟩
  case decode =>
    obtain ⟨⟨-, hr⟩, -⟩ := deviceReady_iff.1 hs
    have idle : (decodeBy (quietAccess s) noise s).running = none := decodeBy_running hr _ noise
    refine ⟨_, exec_decode_ready hs noise, fun k hk rest => ⟨_, step_rawRead rfl, ?signal⟩, fun p w h c f => ?kept⟩
    case signal =>
      have inside : k < bufLen := bufLen_eq ▸ hk
      rw [rawValue_events, rawValue_idle idle inside, decodeBy_raw_get _ _ _ _ inside, noisySample_eq_max_min,
        rngAfter_eq_iterate]
    case kept =>
      obtain ⟨u, hu⟩ := gate_isNext true (decodeBy (quietAccess s) noise s) fun s =>
        modulateBy (quietAccess s) p w h c f s
      rw [← exec_modulate] at hu
      exact ⟨u, hu, exec_modulate_raw idle hu⟩
  case init =>
    refine ⟨_, exec_init_goodDims hs hg p, fun k rest => ?read⟩
    rw [step_rawRead rfl, rawValue_events, rawValue_open (createDevice_raw _)]

end Sys2Proof.Machine

/-! PROOFS. Packets and commands (R91 to R97): what the decoder makes of a command's own packet, and packets written out bit
by bit; then the claims. -/

namespace Sys2Proof

/-- Every packet of a well-formed command lies in the command's own row of the opcode map, and the row reads its operands back
as they were written (R92, R93). -/
theorem decode_encode {i : Instr} (h : i.wellFormed = true) : decode (encode i) = .command i := by
  cases i with
  | init w h p =>
    simp only [Instr.wellFormed, Bool.and_eq_true] at h
    obtain ⟨⟨hw, hh⟩, hp⟩ := h
    rw [decode_of_matches_init (Laws.MatchesItsRow.init w h p), encode, operand_roundtrip hw, operand_roundtrip hh,
      operand_roundtrip hp]
  | resize w h p =>
    simp only [Instr.wellFormed, Bool.and_eq_true] at h
    obtain ⟨⟨hw, hh⟩, hp⟩ := h
    rw [decode_of_matches_resize (Laws.MatchesItsRow.resize w h p), encode, operand_roundtrip hw, operand_roundtrip hh,
      operand_roundtrip hp]
  | reset => exact decode_resetHead 0 0 0
  | modulate p w h c f =>
    simp only [Instr.wellFormed, Bool.and_eq_true] at h
    obtain ⟨⟨hp, hw⟩, hh⟩ := h
    obtain ⟨-, flagC, flagF, -⟩ := headWord_fields (op := 0x04) (by decide) c f 0 0 0
    simp only [Packet.flagC, Packet.flagF] at flagC flagF
    rw [decode_of_matches_modulate (Laws.MatchesItsRow.modulate p w h c f), encode, operand_roundtrip hp,
      operand_roundtrip hw, operand_roundtrip hh, flagC, flagF]
  | decode n =>
    rw [decode_of_matches_decode (Laws.MatchesItsRow.decode n), encode, operand_roundtrip h]

/-- Settles O1: the packet lies in the command's row, and the row reads the operands back. -/
theorem decodeEncodeRoundTrip : Obligations.DecodeEncodeRoundTrip := fun _ h => decode_encode h

/-- Settles O4: each packet by the law of its row, the last by its reserved bit. -/
theorem writtenOutPacketsDecode : Obligations.WrittenOutPacketsDecode := by
  refine ⟨decode_of_matches_init (by decide), decode_resetHead _ _ _, decode_of_matches_modulate (by decide),
    decode_decodeHead _ _ _, ?reserved⟩
  case reserved =>
    have reserved : (Packet.mk 0x80000001 4 3 100).reserved ≠ 0 := by decide
    rw [decode, if_pos reserved]

end Sys2Proof

/-! PROOFS. The state invariant (R24 to R31, R38, R291, R295): that it holds at power-on reset and that every transaction keeps
it. First the updates that touch nothing the invariant speaks of, then recording a fault, then the commands, then a command
in progress and the ports, then the claims. -/

namespace Sys2Proof.Machine

/-! ### Updates the invariant does not see -/

theorem Inv.withEvents {s : State} (hs : Inv s) (es : List Event) : Inv { s with events := es } := { hs with }

theorem Inv.withDraws {s : State} (hs : Inv s) (d : Nat) : Inv { s with draws := d } := { hs with }

theorem Inv.answered {s : State} (hs : Inv s) (v : Reply) : Inv (answer v s) := { hs with }

theorem Inv.ended {s : State} (hs : Inv s) : Inv { s with running := none } := { hs with running_legal := nofun }

/-! ### Recording a fault -/

theorem FaultCode.number_ne_zero (c : FaultCode) : c.number ≠ 0 := by cases c <;> decide

theorem FaultCode.number_le (c : FaultCode) : c.number.toNat ≤ 7 := by cases c <;> decide

/-- Recording a fault keeps the invariant, and leaves the analog buffer free to be unspecified (R298, R331). -/
theorem inv_raiseFault_analog {s : State} (hs : Inv s) {b : SampleBuf} (hb : b.wf) (c : FaultCode) :
    Inv (raiseFault c { s with analog := b }) := by
  by_cases hf : s.fault = true
  · rw [raiseFault, if_pos hf]
    exact { hs with
      analog_wf := hb
      analog_defined := fun _ unfaulted => absurd (unfaulted.symm.trans hf) Bool.false_ne_true
      running_legal := nofun }
  · rw [raiseFault, if_neg hf]
    exact { hs with
      analog_wf := hb
      fault_code := ⟨fun _ => c.number_ne_zero, fun _ => rfl⟩
      fcode_le := c.number_le
      analog_defined := nofun
      running_legal := nofun }

theorem Inv.raised {s : State} (hs : Inv s) (c : FaultCode) : Inv (raiseFault c s) :=
  inv_raiseFault_analog hs hs.analog_wf c

/-- The free calibration after F_BUSY lies in its ranges (log 8). -/
theorem freeCalibration_legal (d : Nat) : (freeCalibration d).legal := by
  unfold freeCalibration
  refine ⟨?_, ?_, ?_, ?_, ?_⟩ <;> dsimp only <;> omega

/-- F_BUSY leaves free values, each in the range of its field (R331, log 8). -/
theorem Inv.busyFaulted {s : State} (hs : Inv s) : Inv (busyFault s) := by
  have dim (n : Nat) : 1 ≤ 1 + n % s.params.maxDim ∧ 1 + n % s.params.maxDim ≤ s.params.maxDim := by
    have := Nat.mod_lt n hs.maxDim_pos
    omega
  have code := (Inv.raised hs .busy).fault_code
  have codeLe := (Inv.raised hs .busy).fcode_le
  rw [raiseFault_fault, raiseFault_fcode] at code
  rw [raiseFault_fcode] at codeLe
  exact {
    analog_wf := by rw [busyFault_analog]; exact SampleBuf.open_wf
    raw_wf := by rw [busyFault_raw]; exact SampleBuf.open_wf
    raw_range := by rw [busyFault_raw]; nofun
    hsync_lt := by rw [busyFault_hsync]; exact Nat.mod_lt _ (by decide)
    vsync_lt := by rw [busyFault_vsync]; exact Nat.mod_lt _ (by decide)
    cal_legal := by rw [busyFault_cal]; exact freeCalibration_legal _
    maxDim_pos := by rw [busyFault_params]; exact hs.maxDim_pos
    outw_range := by rw [busyFault_outw, busyFault_params]; exact dim _
    outh_range := by rw [busyFault_outh, busyFault_params]; exact dim _
    pix_wf := by rw [busyFault_pix]; exact Memory.nil_wf
    fault_code := by rw [busyFault_fault, busyFault_fcode]; exact code
    fcode_le := by rw [busyFault_fcode]; exact codeLe
    analog_defined := by rw [busyFault_fault]; nofun
    running_legal := by rw [runningLegal, busyFault_running]; nofun }

/-! ### The commands -/

/-- A command behind the gate keeps the invariant if its body does on the blocks it runs on. -/
theorem inv_gate {n : Bool} {s t : State} {body : State → State} (hs : Inv s)
    (hbody : Inv (body s)) (h : gate n s body = .next t) : Inv t := by
  rcases gate_cases h with ⟨-, rfl⟩ | ⟨-, -, rfl⟩ | ⟨-, -, -, -, rfl⟩ | ⟨-, -, -, rfl⟩
  · exact hs
  · exact hs.busyFaulted
  · exact hs.raised _
  · exact hbody

theorem inv_bindOutput {s : State} (hs : Inv s) {w h : Nat} (hg : GoodDims s w h) (p : Nat) :
    Inv (bindOutput w h p s) :=
  { hs with outw_range := hg.1, outh_range := hg.2 }

theorem calibrationDefault_legal : Calibration.default.legal := by decide

theorem inv_defaultCalibration {s : State} (hs : Inv s) : Inv (defaultCalibration s) :=
  { hs with cal_legal := calibrationDefault_legal }

theorem inv_createDevice {s : State} (hs : Inv s) : Inv (createDevice s) :=
  { hs with
    analog_wf := SampleBuf.zeros_wf
    raw_wf := SampleBuf.open_wf
    raw_range := nofun
    hsync_lt := by rw [createDevice_hsync]; decide
    vsync_lt := by rw [createDevice_vsync]; decide
    analog_defined := fun _ _ => rfl
    running_legal := fun r hr =>
      have ⟨formed, unfaulted, _, operands⟩ := hs.running_legal r hr
      ⟨formed, unfaulted, .inl rfl, operands⟩ }

theorem inv_modulateBy {s : State} (hs : Inv s) (acc : PixAccess) (p w h : Nat) (c f : Bool) :
    Inv (modulateBy acc p w h c f s) := by
  rcases modulateBy_cases acc p w h c f s with ⟨-, badImage⟩ | ⟨-, -, mapped⟩ | ⟨-, -, unmapped⟩
  · rw [badImage]
    exact hs.raised _
  · rw [mapped]
    exact { hs with analog_wf := SampleBuf.ofFn_wf _, analog_defined := fun _ _ => SampleBuf.ofFn_fill _ }
  · rw [unmapped]
    exact inv_raiseFault_analog hs SampleBuf.open_wf _

theorem newHsync_lt (hs0 : Nat) (t : Tracker) : newHsync hs0 t < 910 := by
  rw [newHsync, hres]
  omega

theorem newVsync_lt {vs0 : Nat} (h : vs0 < 262) (t : Tracker) : newVsync vs0 t < 262 := by
  unfold newVsync vres
  split <;> omega

/-- The cells of the raw-input buffer a DECODE stores never hold −128 (R184). -/
theorem decodeStages_raw_cells (noise : Nat) (s : State) :
    ∀ c ∈ (SampleBuf.ofFn (decodeStages noise s).raw).cells, -127 ≤ c.2.toInt := by
  intro c hc
  obtain ⟨inside, value, -⟩ := SampleBuf.mem_ofFn hc
  obtain ⟨lower, upper⟩ := noisySample_range noise (rngAfter (c.1 + 1) s.rng) (s.analog.get s.draws c.1).toInt
  rw [value, decodeStages_raw noise s inside, toInt_ofInt8 (by omega) upper]
  exact lower

/-- What every DECODE stores before its pixels keeps the invariant, with any pixel memory in canonical form (R180). -/
theorem inv_storeStages {s : State} (hs : Inv s) (noise : Nat) {pix : List (Nat × Pixel)} (hpix : Memory.wf pix) :
    Inv { storeStages (decodeStages noise s) s with pix := pix } := by
  obtain ⟨hsync, vsync, -⟩ := decodeStages_results noise s
  exact { hs with
    raw_wf := SampleBuf.ofFn_wf _
    raw_range := decodeStages_raw_cells noise s
    hsync_lt := by rw [storeStages_hsync, hsync]; exact newHsync_lt _ _
    vsync_lt := by rw [storeStages_vsync, vsync]; exact newVsync_lt hs.vsync_lt _
    pix_wf := hpix }

/-- A DECODE whose accesses know no address past 2^32 keeps the invariant (R66). -/
theorem inv_decodeBy {s : State} (hs : Inv s) {acc : PixAccess} (hacc : ∀ n a, acc.mapped n a = true → a < 2 ^ 32)
    (noise : Nat) : Inv (decodeBy acc noise s) := by
  rcases decodeBy_cases acc noise s with ⟨allMapped, mapped⟩ | ⟨-, unmapped⟩
  · rw [mapped]
    exact inv_storeStages hs noise (writeOutput_wf hs.pix_wf fun i hi _ =>
      hacc i _ ((outputMapped_iff acc s).1 allMapped i hi))
  · rw [unmapped]
    refine Inv.raised (inv_storeStages hs noise (writeOutput_wf hs.pix_wf fun i _ wrote => ?_)) _
    simp only [Bool.and_eq_true] at wrote
    exact hacc i _ wrote.1.1

theorem quietAccess_mapped_lt {s : State} {n a : Nat} (h : (quietAccess s).mapped n a = true) : a < 2 ^ 32 :=
  mappedIn_lt h

theorem racedAccess_mapped_lt {r : Running} {s : State} {n a : Nat} (h : (racedAccess r s).mapped n a = true) :
    a < 2 ^ 32 :=
  mappedIn_lt h

/-- Every command keeps the invariant, in every state. -/
theorem inv_exec {s t : State} (hs : Inv s) (i : Instr) (ht : exec i s = .next t) : Inv t := by
  cases i with
  | init w h p =>
    rw [exec_init] at ht
    refine inv_gate hs ?_ ht
    split
    · exact hs.raised _
    · next good =>
      rw [badDims_eq_true, not_not] at good
      exact inv_createDevice (inv_defaultCalibration (inv_bindOutput hs good p))
  | resize w h p =>
    rw [exec_resize] at ht
    refine inv_gate hs ?_ ht
    split
    · exact hs.raised _
    · next good =>
      rw [badDims_eq_true, not_not] at good
      exact inv_bindOutput hs good p
  | reset =>
    rw [exec_reset] at ht
    exact inv_gate hs (inv_defaultCalibration hs) ht
  | modulate p w h c f =>
    rw [exec_modulate] at ht
    refine inv_gate hs ?_ ht
    exact inv_modulateBy hs _ p w h c f
  | decode n =>
    rw [exec_decode] at ht
    refine inv_gate hs ?_ ht
    exact inv_decodeBy hs (fun _ _ => quietAccess_mapped_lt) n

/-! ### A command in progress -/

/-- A disturbed command keeps the invariant: it sees pixel memory through old and new values and maps only (R332). -/
theorem inv_completeRaced {s t : State} (hs : Inv s) (r : Running) (h : completeRaced r s = .next t) : Inv t := by
  have spent : Inv { s with draws := s.draws + 2 } := hs.withDraws _
  unfold completeRaced at h
  split at h
  · exact inv_gate spent (inv_modulateBy spent _ _ _ _ _ _) h
  · exact inv_gate spent (inv_decodeBy spent (fun _ _ => racedAccess_mapped_lt) _) h
  · exact inv_exec spent _ h
  · exact inv_exec spent _ h
  · exact inv_exec spent _ h

theorem inv_finish {s t : State} (hs : Inv s) (h : finish s = .next t) : Inv t := by
  unfold finish at h
  split at h
  · cases h
    exact hs
  · split at h
    · exact inv_exec hs.ended _ h
    · exact inv_completeRaced hs.ended _ h

/-- The command a packet starts has passed its checks (R295). -/
theorem inv_started {s : State} (hs : Inv s) {p : Packet} {i : Instr} (hd : decode p = .command i)
    (hc : canRun i s = true) : Inv { s with running := some ⟨i, [], []⟩ } := by
  simp only [canRun, Bool.and_eq_true, Bool.or_eq_true, Bool.not_eq_true'] at hc
  obtain ⟨⟨⟨unfaulted, -⟩, device⟩, operands⟩ := hc
  refine { hs with running_legal := fun r hr => ?_ }
  obtain rfl := Option.some.inj hr
  exact ⟨decode_wellFormed hd, unfaulted, device, operands⟩

theorem inv_onPacket {s t : State} (hs : Inv s) {p : Packet} {go : Instr → State → Out}
    (hgo : ∀ i, decode p = .command i → go i s = .next t → Inv t) (h : onPacket p s go = .next t) : Inv t := by
  rcases onPacket_cases p s go with ⟨-, e⟩ | ⟨-, -, e⟩ | ⟨-, -, -, e⟩ | ⟨-, -, i, hd, e⟩ <;> rw [e] at h
  · cases h
    exact hs
  · cases h
    exact hs.busyFaulted
  · cases h
    exact hs.raised _
  · exact hgo i hd h

theorem inv_startPacket {s t : State} (hs : Inv s) {p : Packet} (h : startPacket p s = .next t) : Inv t := by
  refine inv_onPacket hs (fun i hd hgo => ?_) h
  split at hgo
  · next hc =>
    cases hgo
    exact inv_started hs hd hc
  · exact inv_exec hs i hgo

/-! ### The ports, pixel memory and power-on reset -/

/-- A calibration write keeps every value in its range (R36). -/
theorem writeCalibration_legal {c : Calibration} (hc : c.legal) (i : Nat) (v : Word) :
    (writeCalibration c i v).legal := by
  obtain ⟨brightness, contrast, saturation, blackPoint, whitePoint⟩ := hc
  have range {lo hi : Int} (h : lo ≤ hi) : lo ≤ clamp v.toInt lo hi ∧ clamp v.toInt lo hi ≤ hi := ⟨le_clamp h, clamp_le h⟩
  unfold writeCalibration
  split
  · exact ⟨range (by decide), contrast, saturation, blackPoint, whitePoint⟩
  · exact ⟨brightness, range (by decide), saturation, blackPoint, whitePoint⟩
  · exact ⟨brightness, contrast, range (by decide), blackPoint, whitePoint⟩
  · exact ⟨brightness, contrast, saturation, range (by decide), whitePoint⟩
  · exact ⟨brightness, contrast, saturation, blackPoint, range (by decide)⟩
  · exact ⟨brightness, contrast, saturation, blackPoint, whitePoint⟩

theorem inv_regWrite {s : State} (hs : Inv s) (i : Nat) (v : Word) : Inv (regWrite i v s) := by
  rcases regWrite_cases i v s with ⟨-, e⟩ | ⟨-, -, e⟩ | ⟨-, -, -, e⟩ | ⟨-, -, -, -, e⟩ | ⟨-, -, -, -, e⟩ <;> rw [e]
  · exact hs
  · exact hs.busyFaulted
  · exact hs
  · exact hs.raised _
  · exact { hs with cal_legal := writeCalibration_legal hs.cal_legal i v }

theorem inv_anaWrite {s : State} (hs : Inv s) (k : Nat) (v : Sample) : Inv (anaWrite k v s) := by
  rcases anaWrite_cases k v s with ⟨-, e⟩ | ⟨-, -, e⟩ | ⟨-, -, -, e⟩ | ⟨-, -, -, -, e⟩ | ⟨-, -, -, hk, e⟩ <;> rw [e]
  · exact hs
  · exact hs.busyFaulted
  · exact hs.raised _
  · exact hs.raised _
  · exact { hs with analog_wf := SampleBuf.set_wf hs.analog_wf hk v }

theorem inv_pixWrite {s : State} (hs : Inv s) (a : Nat) (v : Pixel) : Inv (pixWrite a v s) := by
  unfold pixWrite
  split
  · next mapped =>
    refine { hs with pix_wf := State.setPixel_wf hs.pix_wf (mappedIn_lt mapped) v, running_legal := fun r hr => ?_ }
    obtain ⟨r, running, rfl⟩ := Option.map_eq_some_iff.1 hr
    exact hs.running_legal r running
  · exact hs

theorem inv_remap {s : State} (hs : Inv s) (m : List PixRegion) : Inv (remap m s) := by
  refine { hs with running_legal := fun r hr => ?_ }
  obtain ⟨r, running, rfl⟩ := Option.map_eq_some_iff.1 hr
  exact hs.running_legal r running

/-- The block right after power-on reset, with any pixel memory in canonical form and any parameters (R38, R320). -/
theorem inv_coldBlock (s : State) {pix : List (Nat × Pixel)} (hmax : 1 ≤ s.params.maxDim) (hpix : Memory.wf pix) :
    Inv { State.reset with
      pix := pix, pixEpoch := s.pixEpoch, params := s.params, events := s.events, reply := s.reply, draws := s.draws } where
  analog_wf := SampleBuf.open_wf
  raw_wf := SampleBuf.open_wf
  raw_range := nofun
  hsync_lt := (by decide : 0 < 910)
  vsync_lt := (by decide : 0 < 262)
  cal_legal := calibrationDefault_legal
  maxDim_pos := hmax
  outw_range := ⟨le_refl 1, hmax⟩
  outh_range := ⟨le_refl 1, hmax⟩
  pix_wf := hpix
  fault_code := (by decide : false = true ↔ 0#4 ≠ 0)
  fcode_le := (by decide : 0 ≤ 7)
  analog_defined := nofun
  running_legal := nofun

theorem inv_powerOn {s : State} (hs : Inv s) : Inv (powerOn s) :=
  (inv_coldBlock s hs.maxDim_pos (pixAfterPowerOn_wf hs.pix_wf)).withDraws _

/-! ### Every transaction -/

theorem inv_perform {s t : State} (hs : Inv s) (e : Event) (h : perform e s = .next t) : Inv t := by
  cases e with
  | command p => exact inv_onPacket hs (fun i _ hgo => inv_exec hs i hgo) h
  | start p => exact inv_startPacket hs h
  | finish => exact inv_finish hs h
  | regRead i | anaRead k | rawRead k | pixRead a =>
    cases h
    exact hs.answered _
  | regWrite i v =>
    cases h
    exact inv_regWrite hs i v
  | anaWrite k v =>
    cases h
    exact inv_anaWrite hs k v
  | pixWrite a v =>
    cases h
    exact inv_pixWrite hs a v
  | remap m =>
    cases h
    exact inv_remap hs m
  | powerOn =>
    cases h
    exact inv_powerOn hs

/-- Settles O51: a step performs a transaction or ends the command in progress, and both keep the invariant. -/
theorem stepKeepsInvariant : Obligations.StepKeepsInvariant := by
  intro s t hs h
  cases he : s.events with
  | nil =>
    rw [step, takeTransaction, he] at h
    exact inv_finish hs h
  | cons e rest =>
    rw [step_of_events he] at h
    exact inv_perform (hs.withEvents rest) e h

/-- Settles O50: the state after power-on reset is the cold block with no pixel written. -/
theorem resetHasInvariant : Obligations.ResetHasInvariant :=
  inv_coldBlock State.reset (by decide) Memory.nil_wf

end Sys2Proof.Machine

/-! PROOFS. Transactions (R10, R64, R75, R120, R300, R320 to R322, R331, R332): that each has a result, a packet as its command,
a command in two halves, INIT, the sample port, the block that is executing a command, host reads of pixel memory and power-on
reset. Laws first, then the claims. -/

namespace Sys2Proof.Machine

/-! ### Every transaction has a result -/

theorem exec_isNext (i : Instr) (s : State) : ∃ t, exec i s = .next t := by
  cases i with
  | init w h p =>
    rw [exec_init]
    exact gate_isNext _ _ _
  | resize w h p =>
    rw [exec_resize]
    exact gate_isNext _ _ _
  | reset =>
    rw [exec_reset]
    exact gate_isNext _ _ _
  | modulate p w h c f =>
    rw [exec_modulate]
    exact gate_isNext _ _ _
  | decode n =>
    rw [exec_decode]
    exact gate_isNext _ _ _

theorem completeRaced_isNext (r : Running) (s : State) : ∃ t, completeRaced r s = .next t := by
  unfold completeRaced
  split
  · exact gate_isNext _ _ _
  · exact gate_isNext _ _ _
  · exact exec_isNext _ _
  · exact exec_isNext _ _
  · exact exec_isNext _ _

theorem finish_isNext (s : State) : ∃ t, finish s = .next t := by
  unfold finish
  split
  · exact ⟨s, rfl⟩
  · split
    · exact exec_isNext _ _
    · exact completeRaced_isNext _ _

theorem onPacket_isNext (p : Packet) (s : State) {go : Instr → State → Out} (hgo : ∀ i, ∃ t, go i s = .next t) :
    ∃ t, onPacket p s go = .next t := by
  rcases onPacket_cases p s go with ⟨-, e⟩ | ⟨-, -, e⟩ | ⟨-, -, -, e⟩ | ⟨-, -, i, -, e⟩ <;> rw [e]
  · exact ⟨_, rfl⟩
  · exact ⟨_, rfl⟩
  · exact ⟨_, rfl⟩
  · exact hgo i

theorem startPacket_isNext (p : Packet) (s : State) : ∃ t, startPacket p s = .next t := by
  refine onPacket_isNext p s fun i => ?_
  split
  · exact ⟨_, rfl⟩
  · exact exec_isNext i s

theorem perform_isNext (e : Event) (s : State) : ∃ t, perform e s = .next t := by
  cases e with
  | command p => exact onPacket_isNext p s fun i => exec_isNext i s
  | start p => exact startPacket_isNext p s
  | finish => exact finish_isNext s
  | regRead | regWrite | anaRead | rawRead | anaWrite | pixRead | pixWrite | remap | powerOn => exact ⟨_, rfl⟩

/-- Settles O8: the step performs a transaction or ends the command in progress, and both answer a next state. -/
theorem stepAlwaysAnswersNext : Obligations.StepAlwaysAnswersNext := by
  intro s
  cases he : s.events with
  | nil =>
    rw [step, takeTransaction, he]
    exact finish_isNext s
  | cons e rest =>
    rw [step_of_events he]
    exact perform_isNext e _

/-! ### A packet is its command -/

/-- The checks a packet meets before it is decoded are the first two of the command itself (R120, R295). -/
theorem runPacket_of_decode {p : Packet} {i : Instr} (hd : decode p = .command i) (s : State) :
    onPacket p s exec = exec i s := by
  rcases onPacket_cases p s exec with ⟨hf, e⟩ | ⟨hf, hr, e⟩ | ⟨-, -, ⟨why, illegal⟩, -⟩ | ⟨-, -, j, hj, e⟩
  · rw [e, exec_faulted hf]
  · have busy (n : Bool) (body : State → State) : gate n s body = .next (busyFault s) := gate_busy hf hr
    rw [e]
    cases i with
    | init w h p => rw [exec_init, busy]
    | resize w h p => rw [exec_resize, busy]
    | reset => rw [exec_reset, busy]
    | modulate p w h c f => rw [exec_modulate, busy]
    | decode n => rw [exec_decode, busy]
  · rw [hd] at illegal
    cases illegal
  · rw [hd] at hj
    cases hj
    exact e

/-- A step on a packet that decodes runs its command past the packet (R75, R120). -/
theorem step_command {s : State} {p : Packet} {i : Instr} {rest : List Event} (h : s.events = .command p :: rest)
    (hd : decode p = .command i) : step s = exec i { s with events := rest } := by
  rw [step_of_events h, perform_command, runPacket_of_decode hd]

/-- Settles O5. -/
theorem stepRunsDecodedCommand : Obligations.StepRunsDecodedCommand := fun _ _ _ _ h hd => step_command h hd

/-! ### A command in two halves -/

/-- Two steps of a machine that both answer a next state. -/
theorem run_two {M : Host.Core} {s t u : M.State} (hst : M.step s = .next t) (htu : M.step t = .next u) :
    M.run 2 s = .next u := by
  simp only [Host.Core.run, hst, htu]

theorem canRun_idle {i : Instr} {s : State} (h : canRun i s = true) : Idle s := by
  simp only [canRun, Bool.and_eq_true, Bool.not_eq_true', busy_eq_false] at h
  obtain ⟨⟨⟨unfaulted, idle⟩, -⟩, -⟩ := h
  exact ⟨unfaulted, idle⟩

/-- A packet that passes every check puts its command in progress (R295). -/
theorem step_start {s : State} {p : Packet} {i : Instr} {rest : List Event} (h : s.events = .start p :: rest)
    (hd : decode p = .command i) (hc : canRun i s = true) :
    step s = .next { s with events := rest, running := some ⟨i, [], []⟩ } := by
  obtain ⟨hf, hr⟩ := canRun_idle hc
  have hc' : canRun i { s with events := rest } = true := hc
  rw [step_of_events h, perform_start, startPacket]
  rcases onPacket_cases p { s with events := rest } _ with ⟨hf', -⟩ | ⟨-, hr', -⟩ | ⟨-, -, ⟨why, illegal⟩, -⟩ | ⟨-, -, j, hj, e⟩
  · rw [hf] at hf'
    cases hf'
  · exact absurd hr hr'
  · rw [hd] at illegal
    cases illegal
  · rw [hd] at hj
    cases hj
    rw [e, if_pos hc']

/-- A command nothing disturbed is the command on the block that has none in progress (R10). -/
theorem finish_quiet {s : State} {r : Running} (hr : s.running = some r) (hq : r.quiet = true) :
    finish s = exec r.instr { s with running := none } := by
  unfold finish
  rw [hr]
  exact if_pos hq

theorem step_finish {s : State} {rest : List Event} (h : s.events = .finish :: rest) :
    step s = finish { s with events := rest } := step_of_events h

/-- Settles O47: the start puts the command in progress, the finish runs it on the block as the start found it. -/
theorem startThenFinishIsCommand : Obligations.StartThenFinishIsCommand := by
  intro s p i rest hd hc
  obtain ⟨-, hr⟩ := canRun_idle hc
  have started := step_start (s := { s with events := .start p :: .finish :: rest }) rfl hd hc
  have finished : step { s with events := .finish :: rest, running := some ⟨i, [], []⟩ }
      = exec i { s with events := rest } := by
    rw [step_finish rfl, finish_quiet rfl rfl]
    dsimp only
    rw [← hr]
  obtain ⟨t, ht⟩ := exec_isNext i { s with events := rest }
  rw [step_command rfl hd, ht]
  exact run_two (M := core) started (finished.trans ht)

/-! ### INIT -/

/-- Settles O9: the two outcomes of the dimension check. -/
theorem initCreatesDevice : Obligations.InitCreatesDevice := by
  intro s w h p hs
  refine ⟨fun hg => ⟨_, exec_init_goodDims hs hg p, rfl, fun d k _ => ?cell, SampleBuf.zeros_wf⟩,
    fun hg => exec_init_badDims hs hg p⟩
  case cell => rw [createDevice_analog, SampleBuf.zeros_get]

/-! ### The sample port -/

/-- On an idle, unfaulted, ready block a sample-port write inside the buffer changes its cell and nothing else (R64). -/
theorem anaWrite_inside {s : State} (hs : DeviceReady s) {k : Nat} (hk : k < bufLen) (v : Sample) :
    anaWrite k v s = { s with analog := s.analog.set k v } := by
  obtain ⟨hf, hr, hd⟩ := hs
  simpa [hf, hr, hd, hk, Nat.not_le.2 hk] using anaWrite_cases k v s

/-- Inside the buffer a read of an idle, ready block answers the cell of the analog buffer (R64). -/
theorem step_anaRead_ready {s : State} {k : Nat} {rest : List Event} (h : s.events = .anaRead k :: rest)
    (hr : s.running = none) (hd : s.ready = true) (hk : k < bufLen) :
    step s = .next
      { s with events := rest, draws := s.draws + 1, reply := some (.sample (s.analog.get s.draws k)) } := by
  rw [step_anaRead h, anaValue_ready hr hd hk]

/-- Settles O43: the write by its law in each state of the block, the read after it by read after write, and the two reads by
the laws of the idle port. -/
theorem analogWriteThenRead : Obligations.AnalogWriteThenRead := by
  intro s k v rest hr hk
  have inside : k < bufLen := bufLen_eq ▸ hk
  refine ⟨fun h => ⟨fun hf => ?faulted, fun hf hd => ?notReady, fun hf hd => ?written⟩, fun h => ?anaRead, fun h => ?rawRead⟩
  case faulted => rw [step_anaWrite h, anaWrite_faulted (s := { s with events := rest }) hf]
  case notReady => rw [step_anaWrite h, anaWrite_before_init (s := { s with events := rest }) ⟨hf, hr⟩ hd]
  case written =>
    have ready : DeviceReady { s with events := rest } := ⟨hf, hr, hd⟩
    rw [step_anaWrite h, anaWrite_inside ready inside]
    refine ⟨_, rfl, rfl, fun d i => SampleBuf.get_set _ _ _ _ _, fun rest' => ?_⟩
    refine Eq.trans (step_anaRead_ready rfl hr hd inside) ?_
    dsimp only
    rw [SampleBuf.get_set, if_pos rfl]
  case anaRead =>
    rw [step_anaRead h]
    by_cases hd : s.ready = true
    · rw [anaValue_ready hr hd inside, if_pos hd]
    · rw [anaValue_before_init (Bool.not_eq_true _ ▸ hd), if_neg hd]
  case rawRead => rw [step_rawRead h, rawValue_idle hr inside]

/-! ### The block that is executing a command -/

/-- A packet, a register write or a sample-port write on a block that is executing a command is F_BUSY (R300). -/
theorem perform_write_busy {s : State} (hf : s.fault = false) (hr : s.running ≠ none) {e : Event}
    (he : (∃ p, e = .command p) ∨ (∃ p, e = .start p) ∨ (∃ i v, e = .regWrite i v) ∨ ∃ k v, e = .anaWrite k v) :
    perform e s = .next (busyFault s) := by
  have packet (p : Packet) (go : Instr → State → Out) : onPacket p s go = .next (busyFault s) := by
    simpa [hf, hr] using onPacket_cases p s go
  rcases he with ⟨p, rfl⟩ | ⟨p, rfl⟩ | ⟨i, v, rfl⟩ | ⟨k, v, rfl⟩
  · rw [perform_command, packet]
  · rw [perform_start, startPacket, packet]
  · rw [perform_regWrite, show regWrite i v s = busyFault s by simpa [hf, hr] using regWrite_cases i v s]
  · rw [perform_anaWrite, show anaWrite k v s = busyFault s by simpa [hf, hr] using anaWrite_cases k v s]

/-- Behind F_BUSY both buffers read as free values, ready or not (R331). -/
theorem samples_busyFault (s : State) (k : Nat) :
    anaValue (busyFault s) k = Config.freeSample (busyFault s).draws k
      ∧ rawValue (busyFault s) k = Config.freeSample (busyFault s).draws k := by
  refine ⟨?_, rawValue_open (busyFault_raw s) k⟩
  unfold anaValue
  rw [busyFault_analog, SampleBuf.open_get, ite_self]

/-- Behind F_BUSY every register but STATUS reads as a free value, ready or not (R331). -/
theorem regValue_busyFault {s : State} (hf : s.fault = false) {i : Nat} (h1 : 1 ≤ i) (h11 : i ≤ 11) :
    regValue (busyFault s) i = Config.freeWord (busyFault s).draws := by
  have scrambled : (busyFault s).scrambled = true := by
    simp [State.scrambled, hf, FaultCode.number]
  unfold regValue
  rw [if_neg (by omega), busy_eq_false.2 (busyFault_running s), if_neg (by decide), if_neg (by omega), scrambled,
    Bool.or_true, if_pos rfl]

/-- While a command executes every register but STATUS reads as a free value (R300). -/
theorem regValue_busy {s : State} (hr : s.running ≠ none) {i : Nat} (hi : i ≠ 0) :
    regValue s i = Config.freeWord s.draws := by
  unfold regValue
  rw [if_neg hi, busy_eq_true.2 hr, if_pos rfl]

/-- While a command executes the sample port reads as free values (R300). -/
theorem samples_busy {s : State} (hr : s.running ≠ none) (k : Nat) :
    anaValue s k = Config.freeSample s.draws k ∧ rawValue s k = Config.freeSample s.draws k := by
  simp [anaValue, rawValue, busy_eq_true.2 hr]

/-- Settles O46: the writes by F_BUSY and what it leaves, the reads by the laws of the ports on a busy block. -/
theorem busyTransactionFault : Obligations.BusyTransactionFault := by
  intro s r e rest hf running h
  have busy : s.running ≠ none := by simp [running]
  refine ⟨fun he => ?write, ?regRead, ?samples⟩
  case write =>
    refine ⟨busyFault { s with events := rest }, ?_, busyFault_fault _, ?_, busyFault_running _, busyFault_ready _,
      busyFault_events _, busyFault_params _, samples_busyFault _, fun i h1 h11 => regValue_busyFault (s := { s with events := rest }) hf h1 h11⟩
    · rw [step_of_events h, perform_write_busy (s := { s with events := rest }) hf busy he]
    · rw [busyFault_fcode, if_neg (by simp [hf])]
  case regRead =>
    rintro i rfl
    refine ⟨_, step_regRead h, rfl, ?_, fun hi => by rw [regValue_busy busy hi]⟩
    rintro rfl
    exact ⟨by rw [regValue_status], by rw [statusWord_getLsbD, if_pos rfl, busy_eq_true.2 busy]⟩
  case samples =>
    rintro k (rfl | rfl)
    · rw [step_anaRead h, (samples_busy busy k).1]
    · rw [step_rawRead h, (samples_busy busy k).2]

/-! ### Host reads of pixel memory -/

/-- A host read of a pixel cell answers `pixelSeen` and changes nothing of the block (R332). -/
theorem step_pixRead {s : State} {a : Nat} {rest : List Event} (h : s.events = .pixRead a :: rest) :
    step s = .next
      { s with
        events := rest
        draws := s.draws + 1
        reply := some (.pixel (pixelSeen { s with events := rest } a)) } := by
  rw [step_of_events h]
  rfl

/-- Settles O53: what the host sees of a mapped cell, on the block past the transaction. -/
theorem outputReadDuringDecode : Obligations.OutputReadDuringDecode := by
  intro s r n a rest running decode mapped h
  refine ⟨_, step_pixRead h, ?_⟩
  rcases pixelSeen_cases (s := { s with events := rest }) mapped with e | ⟨n', writes, maps, running', above, below, e⟩
  · exact .inl e
  · right
    obtain rfl := Option.some.inj (running.symm.trans running')
    cases decode
    rw [e, decodeStages_events]
    exact ⟨⟨above, below⟩, rfl⟩

/-! ### Power-on reset -/

theorem pixel_powerOn (s : State) (a : Nat) :
    (powerOn s).pixel a = (findCell (pixAfterPowerOn s) a).getD (Config.freePixel s.pixEpoch a) := rfl

/-- STATUS right after power-on reset shows BLOOM and nothing else (R320). -/
theorem statusWord_powerOn (s : State) : statusWord (powerOn s) = if s.params.bloomEn then 0x100 else 0x000 := by
  have e : statusWord (powerOn s)
      = 0#23 ++ BitVec.ofBool s.params.bloomEn ++ 0#4 ++ 0#1 ++ BitVec.ofBool false ++ BitVec.ofBool false
        ++ BitVec.ofBool false := rfl
  rw [e]
  cases s.params.bloomEn <;> rfl

/-- Power-on reset leaves a pixel cell alone, or gives it the value of the DECODE in progress in a cell of its output buffer
that a map since it began has (R322). -/
theorem pixel_powerOn_cases (s : State) (a : Nat) :
    (powerOn s).pixel a = s.pixel a
    ∨ ∃ r n, s.running = some r ∧ r.instr = .decode n
      ∧ (s.outBase.toNat ≤ a ∧ a < s.outBase.toNat + s.outw * s.outh)
      ∧ (s.mapped a = true ∨ ∃ m ∈ r.maps, mappedIn m a = true)
      ∧ (powerOn s).pixel a = (decodeStages n s).cell (a - s.outBase.toNat) := by
  rw [pixel_powerOn]
  rcases findCell_pixAfterPowerOn s a with e | ⟨n, writes, maps, running, above, below, mapped, e⟩
  · rw [e]
    exact .inl rfl
  · rw [e]
    obtain ⟨m, hm, has⟩ := mappedInSome_iff.1 mapped
    refine .inr ⟨_, n, running, rfl, ⟨above, below⟩, ?_, rfl⟩
    rcases List.mem_cons.1 hm with rfl | hm
    · exact .inl has
    · exact .inr ⟨m, hm, has⟩

/-- Settles O49: the fields of the cold block, and each pixel cell by the laws of power-on reset. -/
theorem powerOnResetClears : Obligations.PowerOnResetClears := by
  intro s rest h
  refine ⟨powerOn { s with events := rest }, step_of_events h, rfl, rfl, rfl, rfl, statusWord_powerOn _, rfl, rfl, rfl, rfl,
    fun hno a => ?noDecode, fun a => ?cell⟩
  case noDecode =>
    have kept : pixAfterPowerOn { s with events := rest } = s.pix :=
      pixAfterPowerOn_no_decode (s := { s with events := rest }) hno
    rw [pixel_powerOn, kept]
    rfl
  case cell =>
    rcases pixel_powerOn_cases { s with events := rest } a with e | ⟨r, n, running, decode, inside, mapped, e⟩
    · exact .inl e
    · rw [decodeStages_events] at e
      exact .inr ⟨r, n, running, decode, inside, mapped, e⟩

end Sys2Proof.Machine

/-! PROOFS. Command MODULATE (R140 to R155, R298, R332). First the sample of each cell and its range, then the buffer a MODULATE
leaves, then the template, the picture and the source coordinates in plain arithmetic, then a host write during the command;
each claim stands behind its laws. -/

namespace Sys2Proof.Machine

/-! ### The sample of one cell -/

/-- Outside the picture a cell holds the template, whatever pixel memory holds (R146). -/
theorem fieldSample_template {k : Nat} (hk : inPicture (k / hres) (k % hres) = false) (acc : PixAccess)
    (p w h : Nat) (c f : Bool) : fieldSample acc p w h c f k = some (templateSample (k / hres) (k % hres) c f) := by
  rw [fieldSample, hk, if_neg (by decide)]

/-- In the picture a cell whose source pixel is mapped holds that pixel's composite (R152). -/
theorem fieldSample_picture {acc : PixAccess} {p w h : Nat} {c f : Bool} {k : Nat}
    (hk : inPicture (k / hres) (k % hres) = true) (hm : acc.mapped k (sourceAddr p w h f k) = true) :
    fieldSample acc p w h c f k = some (activeSample (acc.value k (sourceAddr p w h f k)) c (theta k f)) := by
  rw [fieldSample, if_pos hk, PixAccess.read, if_pos hm, Option.map_some]

/-- A cell of the picture whose source pixel is not mapped has no sample (R298). -/
theorem fieldSample_unmapped {acc : PixAccess} {p w h : Nat} {c f : Bool} {k : Nat}
    (hk : inPicture (k / hres) (k % hres) = true) (hm : acc.mapped k (sourceAddr p w h f k) = false) :
    fieldSample acc p w h c f k = none := by
  rw [fieldSample, if_pos hk, PixAccess.read, hm, if_neg (by decide), Option.map_none]

/-- A sample that is stored is a sync tip or lies in the range of the picture (R155). -/
theorem fieldSample_levels (acc : PixAccess) (p w h : Nat) (c f : Bool) (k : Nat) :
    (fieldSample acc p w h c f k).getD 0 = -40
      ∨ -20 ≤ (fieldSample acc p w h c f k).getD 0 ∧ (fieldSample acc p w h c f k).getD 0 ≤ 127 := by
  cases hk : inPicture (k / hres) (k % hres) with
  | false =>
    rw [fieldSample_template hk, Option.getD_some]
    unfold templateSample burstSample
    have := cos4_cases (theta (hres * (k / hres) + k % hres) f)
    simp only [blank, burstAmp, syncTip]
    repeat' split
    all_goals omega
  | true =>
    cases hm : acc.mapped k (sourceAddr p w h f k) with
    | false =>
      rw [fieldSample_unmapped hk hm]
      decide
    | true =>
      rw [fieldSample_picture hk hm]
      exact .inr (activeSample_range _ _ _)

/-! ### The buffer a MODULATE leaves -/

/-- A buffer of samples reads back as they were computed (R155). -/
theorem get_ofFn_fieldSample (acc : PixAccess) (p w h : Nat) (c f : Bool) (d : Nat) {k : Nat} (hk : k < bufLen) :
    ((SampleBuf.ofFn fun k => (fieldSample acc p w h c f k).getD 0).get d k).toInt
      = (fieldSample acc p w h c f k).getD 0 := by
  have levels := fieldSample_levels acc p w h c f k
  exact SampleBuf.get_ofFn_toInt _ d hk (by omega) (by omega)

/-- What a MODULATE leaves when every source cell is mapped: the analog buffer written whole (R140). -/
def modulatedState (p w h : Nat) (c f : Bool) (s : State) : State :=
  { s with analog := SampleBuf.ofFn fun k => (fieldSample (quietAccess s) p w h c f k).getD 0 }

theorem exec_modulate_ready {s : State} {p w h : Nat} {f : Bool} (hs : DeviceReady s) (hg : GoodDims s w h)
    (hm : SourceMapped s p w h f) (c : Bool) : exec (.modulate p w h c f) s = .next (modulatedState p w h c f s) :=
  exec_modulate_mapped hs hg hm

theorem modulatedState_get (p w h : Nat) (c f : Bool) (s : State) (d : Nat) {k : Nat} (hk : k < bufLen) :
    ((modulatedState p w h c f s).analog.get d k).toInt = (fieldSample (quietAccess s) p w h c f k).getD 0 :=
  get_ofFn_fieldSample _ _ _ _ _ _ d hk

theorem modulatedState_template (p w h : Nat) (c f : Bool) (s : State) (d : Nat) {k : Nat} (hk : k < bufLen)
    (hout : inPicture (k / hres) (k % hres) = false) :
    ((modulatedState p w h c f s).analog.get d k).toInt = templateSample (k / hres) (k % hres) c f := by
  rw [modulatedState_get _ _ _ _ _ _ _ hk, fieldSample_template hout, Option.getD_some]

/-- The cells of the picture are active samples (R145). -/
theorem inPicture_iff {n t : Nat} : inPicture n t = true ↔ (21 ≤ n ∧ n < 261) ∧ 156 ≤ t ∧ t < 908 := by
  simp [inPicture, top, nlines, avBeg, avLen, and_assoc]

/-- With the source frame mapped the source pixel of each cell of the picture is (R148). -/
theorem mapped_sourceAddr {s : State} {p w h : Nat} {f : Bool} (hm : SourceMapped s p w h f) {k : Nat}
    (hk : inPicture (k / hres) (k % hres) = true) : s.mapped (sourceAddr p w h f k) = true := by
  rw [inPicture_iff] at hk
  exact hm (k % hres - 156) (by omega) (k / hres - 21) (by omega)

theorem modulatedState_picture {s : State} {p w h : Nat} {f : Bool} (hm : SourceMapped s p w h f) (c : Bool) (d : Nat)
    {k : Nat} (hk : k < bufLen) (hin : inPicture (k / hres) (k % hres) = true) :
    ((modulatedState p w h c f s).analog.get d k).toInt
      = activeSample (s.pixel (sourceAddr p w h f k)) c (theta k f) := by
  rw [modulatedState_get _ _ _ _ _ _ _ hk, fieldSample_picture hin (mapped_sourceAddr hm hin), Option.getD_some,
    quietAccess_value]

/-- Settles O16: the next state is `modulatedState`. -/
theorem modulateWritesAnalogOnly : Obligations.ModulateWritesAnalogOnly := by
  intro s p w h c f hs hg hm
  exact ⟨_, exec_modulate_ready hs hg hm c, rfl, SampleBuf.ofFn_fill _, SampleBuf.ofFn_wf _⟩

/-- Settles O19: behind the gate an unmapped source cell is F_MEM, with the analog buffer unspecified. -/
theorem modulateUnmappedFault : Obligations.ModulateUnmappedFault := by
  intro s p w h c f hs hg hm
  obtain ⟨idle, -⟩ := deviceReady_iff.1 hs
  have notMapped : fieldMapped (quietAccess s) p w h c f = false := (Bool.not_eq_true _).mp (mt fieldMapped_quiet.1 hm)
  have e : modulateBy (quietAccess s) p w h c f s = raiseFault .mem { s with analog := SampleBuf.open } := by
    simpa [badDims_eq_false.2 hg, notMapped] using modulateBy_cases (quietAccess s) p w h c f s
  rw [exec_modulate, gate_ready hs, e, raiseFault_idle (s := { s with analog := SampleBuf.open }) idle]
  rfl

/-! ### The template -/

theorem cos4_eq_ite (p : Nat) : cos4 p = if p % 4 = 0 then 1 else if p % 4 = 2 then -1 else 0 := by
  have : p % 4 < 4 := Nat.mod_lt _ (by decide)
  unfold cos4
  interval_cases p % 4 <;> rfl

theorem sin4_eq_ite (p : Nat) : sin4 p = if p % 4 = 1 then 1 else if p % 4 = 3 then -1 else 0 := by
  have : p % 4 < 4 := Nat.mod_lt _ (by decide)
  unfold sin4
  interval_cases p % 4 <;> rfl

/-- Line and offset of buffer cell `910·n + o` (R21). -/
theorem cell_line_offset (n : Nat) {o : Nat} (ho : o < 910) : (910 * n + o) / hres = n ∧ (910 * n + o) % hres = o := by
  constructor <;> (simp only [hres]; omega)

/-- The template in numbers (R144 to R147). -/
theorem templateSample_eq (n o : Nat) (c f : Bool) :
    templateSample n o c f
      = if n ≤ 2 ∨ (6 ≤ n ∧ n ≤ 8) then (if (21 ≤ o ∧ o < 54) ∨ (476 ≤ o ∧ o < 509) then -40 else 0)
        else if n ≤ 5 then (if (21 ≤ o ∧ o < 409) ∨ (476 ≤ o ∧ o < 864) then -40 else 0)
        else if 21 ≤ o ∧ o < 88 then -40
        else if 97 ≤ o ∧ o < 137 ∧ c = true then
          (if (910 * n + o + 2 * f.toNat) % 4 = 0 then -20
           else if (910 * n + o + 2 * f.toNat) % 4 = 2 then 20 else 0)
        else 0 := by
  have burst : burstSample (910 * n + o) f
      = if (910 * n + o + 2 * f.toNat) % 4 = 0 then -20 else if (910 * n + o + 2 * f.toNat) % 4 = 2 then 20 else 0 := by
    rw [burstSample, theta, cos4_mod, cos4_eq_ite]
    split
    · rfl
    · split <;> rfl
  have equalizing : equalizingLine n = true ↔ n ≤ 2 ∨ (6 ≤ n ∧ n ≤ 8) := by simp [equalizingLine]
  have broad : broadLine n = true ↔ 3 ≤ n ∧ n ≤ 5 := by simp [broadLine]
  have pulses (w : Nat) : inPulsePair w o = true ↔ (21 ≤ o ∧ o < 21 + w) ∨ (476 ≤ o ∧ o < 476 + w) := by
    simp [inPulsePair, syncBeg, half]
  simp only [templateSample, hres, burst, equalizing, broad, pulses, eqW, broadW, syncTip, blank, syncBeg, syncEnd, cbBeg,
    cbLen, Bool.and_eq_true, decide_eq_true_eq]
  by_cases he : n ≤ 2 ∨ (6 ≤ n ∧ n ≤ 8)
  · rw [if_pos he, if_pos he]
  · have : (3 ≤ n ∧ n ≤ 5) ↔ n ≤ 5 := by omega
    simp only [this, and_assoc]

/-- Settles O17: outside the picture each cell holds its template sample, in numbers. -/
theorem modulateTemplate : Obligations.ModulateTemplate := by
  intro s p w h c f hs hg hm
  refine ⟨_, exec_modulate_ready hs hg hm c, fun d n hn o ho hout => ?_⟩
  obtain ⟨line, offset⟩ := cell_line_offset n ho
  have outside : inPicture n o = false := by
    rw [← Bool.not_eq_true, inPicture_iff]
    omega
  rw [modulatedState_template _ _ _ _ _ _ _ (by rw [bufLen_eq]; omega) (by rw [line, offset, outside]), line, offset,
    templateSample_eq]

/-! ### The picture -/

/-- R, G and B of a pixel cell by division (R68). -/
theorem pixel_channels (p : Pixel) :
    Pixel.red p = (p.toNat / 65536 : Nat) ∧ Pixel.green p = (p.toNat / 256 % 256 : Nat)
      ∧ Pixel.blue p = (p.toNat % 256 : Nat) := by
  have := p.isLt
  refine ⟨?red, ?green, ?blue⟩
  case green => rw [Pixel.green, BitVec.extractLsb'_toNat, Nat.shiftRight_eq_div_pow]
  case red | blue =>
    simp only [Pixel.red, Pixel.blue, BitVec.extractLsb'_toNat, Nat.shiftRight_eq_div_pow]
    congr 1
    omega

theorem pixel_channels_range (p : Pixel) :
    (0 ≤ Pixel.red p ∧ Pixel.red p ≤ 255) ∧ (0 ≤ Pixel.green p ∧ Pixel.green p ≤ 255)
      ∧ 0 ≤ Pixel.blue p ∧ Pixel.blue p ≤ 255 := by
  obtain ⟨r, g, b⟩ := pixel_channels p
  have := p.isLt
  rw [r, g, b]
  omega

/-- Luma and chroma mixed at the four phases of the carrier (R141, R152). -/
theorem composite_eq (k : YIQ) (th : Nat) :
    k.y + k.q * cos4 th + k.i * sin4 th
      = match th % 4 with
        | 0 => k.y + k.q
        | 1 => k.y + k.i
        | 2 => k.y - k.q
        | _ => k.y - k.i := by
  have : th % 4 < 4 := Nat.mod_lt _ (by decide)
  rw [cos4_eq_ite, sin4_eq_ite]
  interval_cases th % 4 <;> simp [sub_eq_add_neg]

theorem composite_cases (k : YIQ) (th : Nat) :
    k.y + k.q * cos4 th + k.i * sin4 th = k.y + k.q ∨ k.y + k.q * cos4 th + k.i * sin4 th = k.y + k.i
      ∨ k.y + k.q * cos4 th + k.i * sin4 th = k.y - k.q ∨ k.y + k.q * cos4 th + k.i * sin4 th = k.y - k.i := by
  rw [composite_eq]
  split <;> simp

/-- Settles O18: the cell of the active sample, its source pixel, and the composite in numbers. -/
theorem modulatePicture : Obligations.ModulatePicture := by
  intro s p w h c f hs hg hm
  refine ⟨_, exec_modulate_ready hs hg hm c, fun d y hy x hx => ?_⟩
  obtain ⟨inside, line, offset, picture⟩ := active_cell hx hy
  obtain ⟨r, g, b⟩ := pixel_channels (s.pixel (p + min (h - 1) ((2 * y + f.toNat) * h / 480) * w + x * w / 752))
  dsimp only
  rw [Nat.add_assoc (910 * (21 + y)), modulatedState_picture hm c d inside (by rw [line, offset, picture]),
    sourceAddr_active p w h f hx hy, activeSample, clamp_eq_max_min (by decide), composite_eq, theta, Nat.mod_mod]
  simp only [lumaChroma, r, g, b]
  rfl

/-- Settles O20: the intermediate values from the ranges of the channels, the samples from their levels. -/
theorem modulateSampleRanges : Obligations.ModulateSampleRanges := by
  refine ⟨fun p c th => ?values, fun s t p w h c f hs hg hm ht d k hk => ?samples⟩
  case values =>
    obtain ⟨hr, hg, hb⟩ := pixel_channels_range p
    dsimp only
    have composite := composite_cases (lumaChroma p c) th
    generalize (lumaChroma p c).y + (lumaChroma p c).q * cos4 th + (lumaChroma p c).i * sin4 th = v at *
    simp only [lumaChroma, shr] at *
    generalize Pixel.red p = r at *
    generalize Pixel.green p = g at *
    generalize Pixel.blue p = b at *
    cases c <;> simp only [if_true, if_false, Bool.false_eq_true] at * <;> omega
  case samples =>
    obtain rfl := Host.Outcome.next.inj ((exec_modulate_ready hs hg hm c).symm.trans ht)
    rw [modulatedState_get _ _ _ _ _ _ _ (bufLen_eq ▸ hk)]
    exact fieldSample_levels _ _ _ _ _ _ _

/-! ### Sync and parity -/

/-- A template sample is low iff the template without colour is, whatever the parity: burst and blanking are not (R147, R154). -/
theorem templateSample_low_iff (n o : Nat) (c f : Bool) :
    templateSample n o c f < -20 ↔ templateSample n o false false = -40 := by
  simp only [templateSample_eq]
  grind

/-- The low samples of a MODULATE lie in the sync pulses of the template (R154, R155). -/
theorem modulatedState_low_iff {s : State} {p w h : Nat} {f : Bool} (hm : SourceMapped s p w h f) (c : Bool) (d : Nat)
    {k : Nat} (hk : k < bufLen) :
    ((modulatedState p w h c f s).analog.get d k).toInt < -20 ↔ templateSample (k / hres) (k % hres) false false = -40 := by
  cases hin : inPicture (k / hres) (k % hres) with
  | false => rw [modulatedState_template _ _ _ _ _ _ _ hk hin, templateSample_low_iff]
  | true =>
    have := activeSample_range (s.pixel (sourceAddr p w h f k)) c (theta k f)
    rw [modulatedState_picture hm c d hk hin, templateSample_eq]
    rw [inPicture_iff] at hin
    generalize k / hres = n at *
    generalize k % hres = o at *
    constructor
    · omega
    · grind

/-- Settles O21: for either parity the low samples are those of the template without colour. -/
theorem parityMovesNoSync : Obligations.ParityMovesNoSync := by
  intro s t u p w h c hs hg hme hmo ht hu d k hk
  have inside : k < bufLen := bufLen_eq ▸ hk
  obtain rfl := Host.Outcome.next.inj ((exec_modulate_ready hs hg hme c).symm.trans ht)
  obtain rfl := Host.Outcome.next.inj ((exec_modulate_ready hs hg hmo c).symm.trans hu)
  rw [modulatedState_low_iff hme c d inside, modulatedState_low_iff hmo c d inside]

/-! ### The source column -/

/-- Settles O22, by induction on the column: quotient and remainder of `x·w` by 752 carry together. -/
theorem sourceColumnIsAccumulator : Obligations.SourceColumnIsAccumulator := by
  intro w x
  induction x with
  | zero => simp [sourceColumn]
  | succ x ih =>
    dsimp only
    rw [ih, sourceColumn, sourceColumn, avLen, Nat.add_mul, Nat.one_mul]
    ext <;> dsimp only <;> omega

/-! ### A host write during the command -/

/-- The host writes a mapped pixel cell: the command in progress remembers the value it had, and nothing else of the block
changes (R332). -/
theorem step_pixWrite {s : State} {a : Nat} {rest : List Event} {v : Pixel} (h : s.events = .pixWrite a v :: rest)
    (hm : s.mapped a = true) :
    ∃ u, step s = .next u ∧ u.events = rest ∧ u.running = noteWrite a s ∧ u.fault = s.fault ∧ u.ready = s.ready
      ∧ u.params = s.params ∧ ∀ b, u.pixel b = if b = a then v else s.pixel b := by
  have e : step s = .next (pixWrite a v { s with events := rest }) := step_of_events h
  rw [pixWrite, if_pos (show ({ s with events := rest } : State).mapped a = true from hm)] at e
  exact ⟨_, e, rfl, rfl, rfl, rfl, rfl, State.pixel_setPixel { s with events := rest } a v⟩

/-- With one cell written during the command an access sees the value before or the present one there, and the present one
everywhere else (R332). -/
theorem racedAccess_value_cases {r : Running} {s : State} {a : Nat} {old : Pixel} (hw : r.writes = [⟨a, old⟩])
    (n b : Nat) :
    (racedAccess r s).value n b = s.pixel b ∨ b = a ∧ (racedAccess r s).value n b = old := by
  have e : (racedAccess r s).value n b
      = pickAmong (Config.freePick (s.draws + 1) n) (s.pixel b) (earlierValues r b) := rfl
  rw [e, earlierValues, hw]
  by_cases hb : a = b
  · have two : Config.freePick (s.draws + 1) n % 2 < 2 := Nat.mod_lt _ (by decide)
    subst hb
    simp only [pickAmong, decide_true, List.filter_cons_of_pos, List.filter_nil, List.map_cons, List.map_nil,
      List.length_cons, List.length_nil, Nat.zero_add, Nat.reduceAdd, true_and]
    interval_cases Config.freePick (s.draws + 1) n % 2
    · exact .inl rfl
    · exact .inr rfl
  · simp [pickAmong, hb]

/-- With the map unchanged during the command an access finds mapped what is (R332). -/
theorem racedAccess_mapped {r : Running} (hr : r.maps = []) (s : State) (n b : Nat) :
    (racedAccess r s).mapped n b = s.mapped b := by
  have e : (racedAccess r s).mapped n b
      = mappedIn (pickAmong (Config.freePick s.draws n) s.params.pixmem r.maps) b := rfl
  rw [e, hr]
  simp [pickAmong, State.mapped, Nat.mod_one]

/-- A MODULATE whose accesses find the source frame mapped writes the analog buffer and nothing else (R140, R332). -/
theorem modulateBy_mapped {acc : PixAccess} {s : State} {p w h : Nat} {c f : Bool} (hg : GoodDims s w h)
    (hm : SourceMapped s p w h f) (hacc : ∀ n b, acc.mapped n b = s.mapped b) :
    modulateBy acc p w h c f s
      = { s with analog := SampleBuf.ofFn fun k => (fieldSample acc p w h c f k).getD 0 } := by
  have mapped : fieldMapped acc p w h c f = true := by
    rw [fieldMapped_iff]
    intro k _
    cases hin : inPicture (k / hres) (k % hres) with
    | false => rw [fieldSample_template hin, Option.isSome_some]
    | true => rw [fieldSample_picture hin (by rw [hacc, mapped_sourceAddr hm hin]), Option.isSome_some]
  simpa [badDims_eq_false.2 hg, mapped] using modulateBy_cases acc p w h c f s

/-- A MODULATE during which the host wrote pixel cells, with the map left alone: the analog buffer written whole, through the
accesses of the race (R332). -/
theorem finish_raced_modulate {s : State} {r : Running} {p w h : Nat} {c f : Bool} (hf : s.fault = false)
    (hd : s.ready = true) (hr : s.running = some r) (hi : r.instr = .modulate p w h c f) (hq : r.quiet = false)
    (hmaps : r.maps = []) (hg : GoodDims s w h) (hm : SourceMapped s p w h f) :
    finish s = .next
      { s with
        running := none
        draws := s.draws + 2
        analog := SampleBuf.ofFn fun k =>
          (fieldSample (racedAccess r { s with running := none }) p w h c f k).getD 0 } := by
  have ready : DeviceReady { s with running := none, draws := s.draws + 2 } := ⟨hf, rfl, hd⟩
  have body := modulateBy_mapped (s := { s with running := none, draws := s.draws + 2 }) (c := c) hg hm
    (racedAccess_mapped hmaps { s with running := none })
  unfold finish
  rw [hr]
  dsimp only
  rw [hq, if_neg (by decide), completeRaced, hi]
  dsimp only
  rw [gate_ready ready, body]

/-- Settles O48: the write leaves the command in progress with one remembered value, and the race of the completion picks that
value or the new one for each sample. -/
theorem sourceWriteDuringModulate : Obligations.SourceWriteDuringModulate := by
  intro s p w h c f a v rest hf hd running hg hm ha hev
  obtain ⟨u, written, events, noted, fault, ready, params, pixel⟩ := step_pixWrite hev ha
  let r : Running := ⟨.modulate p w h c f, [⟨a, s.pixel a⟩], []⟩
  have inProgress : u.running = some r := by
    rw [noted, noteWrite, running]
    rfl
  have mapped (b : Nat) : ({ u with events := rest } : State).mapped b = s.mapped b := by
    rw [State.mapped, State.mapped, params]
  have sourceMapped : SourceMapped { u with events := rest } p w h f := fun x hx y hy => (mapped _).trans (hm x hx y hy)
  have completed := step_finish events
  rw [finish_raced_modulate (s := { u with events := rest }) (fault.trans hf) (ready.trans hd) inProgress rfl rfl rfl
    (by rw [GoodDims, params]; exact hg) sourceMapped] at completed
  refine ⟨_, run_two (M := core) written completed, fault.trans hf, rfl, (pixel a).trans (if_pos rfl), fun d k hk hin => ?_⟩
  have present : ({ u with events := rest, running := none } : State).pixel (sourceAddr p w h f k)
      = if sourceAddr p w h f k = a then v else s.pixel (sourceAddr p w h f k) := pixel _
  have value := racedAccess_value_cases (r := r) (s := { u with events := rest, running := none }) rfl k
    (sourceAddr p w h f k)
  have sample := fieldSample_picture (acc := racedAccess r { u with events := rest, running := none }) (c := c) hin
    ((racedAccess_mapped rfl _ _ _).trans ((mapped _).trans (mapped_sourceAddr hm hin)))
  rw [get_ofFn_fieldSample _ _ _ _ _ _ d (bufLen_eq ▸ hk), sample, Option.getD_some]
  rw [present] at value
  rcases value with e | ⟨here, e⟩
  · rw [e]
    by_cases here : sourceAddr p w h f k = a
    · rw [if_pos here]
      exact .inr ⟨here, rfl⟩
    · rw [if_neg here]
      exact .inl rfl
  · rw [e, here]
    exact .inl rfl

end Sys2Proof.Machine

/-! PROOFS. Command DECODE beside its outputs (R182, R298, R333): a DECODE with an unmapped output cell, and on what a DECODE and
a MODULATE depend. Laws first, then the claims. -/

namespace Sys2Proof.Machine

/-! ### An unmapped output cell -/

/-- What a DECODE leaves when an output cell is unmapped: the results of its stages, the mapped output cells a free choice
marks, and F_MEM (R298). -/
def faultedDecodeState (noise : Nat) (s : State) : State :=
  { s with
    raw := SampleBuf.ofFn (decodeStages noise s).raw
    rng := (decodeStages noise s).rng
    hsync := (decodeStages noise s).hsync
    vsync := (decodeStages noise s).vsync
    pix := writeOutput s (fun i => s.mapped (s.outStart + i) && Config.freeChoice s.draws i) (decodeStages noise s).cell
    draws := s.draws + 1
    fault := true
    fcode := 6 }

theorem raiseFault_storeStages {s : State} (hs : Idle s) (r : DecodeResult) (pix : List (Nat × Pixel)) :
    raiseFault .mem { storeStages r s with pix := pix }
      = { s with
          raw := SampleBuf.ofFn r.raw, rng := r.rng, hsync := r.hsync, vsync := r.vsync, pix := pix, draws := s.draws + 1
          fault := true, fcode := 6 } :=
  raiseFault_idle (s := { storeStages r s with pix := pix }) hs .mem

theorem exec_decode_unmapped {s : State} (hs : DeviceReady s) (hm : ¬ OutputMapped s) (noise : Nat) :
    exec (.decode noise) s = .next (faultedDecodeState noise s) := by
  rw [exec_decode_ready hs]
  rcases decodeBy_cases (quietAccess s) noise s with ⟨mapped, -⟩ | ⟨-, e⟩
  · exact absurd (outputMapped_quiet.1 mapped) hm
  · obtain ⟨idle, -⟩ := deviceReady_iff.1 hs
    rw [e, raiseFault_storeStages idle]
    simp only [quietAccess_mapped, quietAccess_keeps, Bool.not_false, Bool.and_true]
    rfl

/-- After F_MEM a pixel cell keeps its value, or is a mapped output cell with the value the DECODE computed (R298). -/
theorem pixel_faultedDecodeState (noise : Nat) (s : State) (a : Nat) :
    (faultedDecodeState noise s).pixel a = s.pixel a
    ∨ (s.outStart ≤ a ∧ a < s.outStart + s.outCells) ∧ s.mapped a = true
      ∧ (faultedDecodeState noise s).pixel a = (decodeStages noise s).cell (a - s.outStart) := by
  have listed := findCell_writeOutput s (fun i => s.mapped (s.outStart + i) && Config.freeChoice s.draws i)
    (decodeStages noise s).cell a
  split at listed
  · next hit =>
    obtain ⟨above, below, wrote⟩ := hit
    rw [Nat.add_sub_cancel' above, Bool.and_eq_true] at wrote
    exact .inr ⟨⟨above, below⟩, wrote.1, congrArg (Option.getD · _) listed⟩
  · exact .inl (congrArg (Option.getD · _) listed)

/-- Settles O24: the next state is `faultedDecodeState`, and each pixel cell is old or new. -/
theorem decodeUnmappedFault : Obligations.DecodeUnmappedFault := by
  intro s noise hs hm
  refine ⟨_, exec_decode_unmapped hs hm noise, rfl, fun i _ => ?inside, fun a ha => ?outside⟩
  case inside =>
    rcases pixel_faultedDecodeState noise s (s.outStart + i) with kept | ⟨-, mapped, e⟩
    · exact .inl kept
    · rw [Nat.add_sub_cancel_left] at e
      exact .inr ⟨mapped, e⟩
  case outside => exact (pixel_faultedDecodeState noise s a).resolve_right fun ⟨inside, _⟩ => ha inside

/-! ### What a DECODE depends on -/

/-- The stages of a DECODE are the tracker and the demodulator on what the noise stage makes of the analog buffer (R180). -/
theorem decodeStages_eq_stagesAfterNoise (noise : Nat) (s : State) :
    decodeStages noise s
      = stagesAfterNoise (noiseStage noise (fun k => (s.analog.values s.draws).getD k 0) s.rng bufLen) s := by
  unfold decodeStages
  generalize bufLen = n
  rfl

/-- The cells of a defined buffer do not depend on the draw (R38). -/
theorem values_of_defined {b : SampleBuf} (hb : b.fill = .zero) (d e : Nat) : b.values d = b.values e := by
  unfold SampleBuf.values
  simp only [hb, blankSample_zero]

theorem stagesAfterNoise_congr {s u : State} (noisy : Array Int × Word) (hsync : s.hsync = u.hsync)
    (vsync : s.vsync = u.vsync) (cal : s.cal = u.cal) (outw : s.outw = u.outw) (outh : s.outh = u.outh)
    (bloom : s.params.bloomEn = u.params.bloomEn) : stagesAfterNoise noisy s = stagesAfterNoise noisy u := by
  simp only [stagesAfterNoise, hsync, vsync, cal, outw, outh, bloom]

/-- The stages of a DECODE are a function of the Device, the noise level and BLOOM_EN (R182). -/
theorem decodeStages_congr {s u : State} (noise : Nat) (analog : s.analog = u.analog) (defined : s.analog.fill = .zero)
    (hsync : s.hsync = u.hsync) (vsync : s.vsync = u.vsync) (cal : s.cal = u.cal) (outw : s.outw = u.outw)
    (outh : s.outh = u.outh) (rng : s.rng = u.rng) (bloom : s.params.bloomEn = u.params.bloomEn) :
    decodeStages noise s = decodeStages noise u := by
  rw [decodeStages_eq_stagesAfterNoise, decodeStages_eq_stagesAfterNoise, values_of_defined defined s.draws u.draws, analog,
    rng]
  exact stagesAfterNoise_congr _ hsync vsync cal outw outh bloom

/-- What a DECODE with its output buffer mapped leaves, field by field (R180). -/
theorem decodedState_eq (noise : Nat) (s : State) :
    decodedState noise s
      = { s with
          raw := SampleBuf.ofFn (decodeStages noise s).raw
          rng := (decodeStages noise s).rng
          hsync := (decodeStages noise s).hsync
          vsync := (decodeStages noise s).vsync
          pix := writeOutput s (fun _ => true) (decodeStages noise s).cell
          draws := s.draws + 1 } := by
  have stored (r : DecodeResult) (pix : List (Nat × Pixel)) :
      ({ storeStages r s with pix := pix } : State)
        = { s with
            raw := SampleBuf.ofFn r.raw, rng := r.rng, hsync := r.hsync, vsync := r.vsync, pix := pix
            draws := s.draws + 1 } := rfl
  exact stored _ _

/-- Settles O26: both blocks store and write what the same stages computed. -/
theorem decodeFunctionOfDevice : Obligations.DecodeFunctionOfDevice := by
  intro s u noise hs hu ms mu analog defined hsync vsync cal outw outh rng bloom
  have same := decodeStages_congr noise analog defined hsync vsync cal outw outh rng bloom
  refine ⟨_, _, exec_decode_mapped hs ms noise, exec_decode_mapped hu mu noise, ?raw, ?rng, ?hsync, ?vsync,
    fun i hi => ?cell⟩
  case raw | rng | hsync | vsync => rw [decodedState_eq, decodedState_eq, same]
  case cell => rw [pixel_decodedState noise hi, pixel_decodedState noise (outw ▸ outh ▸ hi), same]

/-! ### Calibration -/

theorem stagesAfterNoise_withCal (noisy : Array Int × Word) (s : State) (c : Calibration) :
    stagesAfterNoise noisy { s with cal := c }
      = { stagesAfterNoise noisy s with cell := (stagesAfterNoise noisy { s with cal := c }).cell } := rfl

/-- The calibration has a part in the output cells of a DECODE and in no other result of its stages (R333). -/
theorem decodeStages_withCal (noise : Nat) (s : State) (c : Calibration) :
    decodeStages noise { s with cal := c }
      = { decodeStages noise s with cell := (decodeStages noise { s with cal := c }).cell } := by
  rw [decodeStages_eq_stagesAfterNoise, decodeStages_eq_stagesAfterNoise]
  exact stagesAfterNoise_withCal _ s c

theorem raiseFault_withCal (code : FaultCode) (s : State) (c : Calibration) :
    raiseFault code { s with cal := c } = { raiseFault code s with cal := c } := by
  unfold raiseFault
  cases s.fault <;> rfl

/-- MODULATE does not look at the calibration, on any of its outcomes (R333). -/
theorem modulateBy_withCal (acc : PixAccess) (p w h : Nat) (col f : Bool) (s : State) (c : Calibration) :
    modulateBy acc p w h col f { s with cal := c } = { modulateBy acc p w h col f s with cal := c } := by
  have dims : badDims { s with cal := c } w h = badDims s w h := rfl
  unfold modulateBy
  rw [dims]
  split
  · exact raiseFault_withCal _ s c
  · split
    · rfl
    · exact raiseFault_withCal _ { s with analog := SampleBuf.open } c

/-- Settles O27: DECODE stores the same results and writes cells of the output buffer alone, on both of its outcomes; a
MODULATE does not look at the calibration. -/
theorem calibrationTouchesPixelsOnly : Obligations.CalibrationTouchesPixelsOnly := by
  intro s c hs
  have hc : DeviceReady { s with cal := c } := hs
  refine ⟨fun noise => ?decode, fun p w h col f => ?modulate⟩
  case decode =>
    have same := decodeStages_withCal noise s c
    by_cases hm : OutputMapped s
    · have hmc : OutputMapped { s with cal := c } := hm
      refine ⟨_, _, exec_decode_mapped hs hm noise, exec_decode_mapped hc hmc noise, ?_, fun a ha => ?_⟩
      · rw [decodedState_eq, same, decodedState_eq]
      · rw [pixel_decodedState_outside noise ha]
        exact pixel_decodedState_outside noise (s := { s with cal := c }) ha
    · have hmc : ¬ OutputMapped { s with cal := c } := hm
      refine ⟨_, _, exec_decode_unmapped hs hm noise, exec_decode_unmapped hc hmc noise, ?_, fun a ha => ?_⟩
      · rw [faultedDecodeState, same, faultedDecodeState]
      · rw [(pixel_faultedDecodeState noise s a).resolve_right fun ⟨inside, _⟩ => ha inside]
        exact (pixel_faultedDecodeState noise { s with cal := c } a).resolve_right fun ⟨inside, _⟩ => ha inside
  case modulate =>
    rw [exec_modulate, exec_modulate, gate_ready hs, gate_ready hc]
    exact ⟨_, rfl, congrArg _ (modulateBy_withCal _ p w h col f s c)⟩

end Sys2Proof.Machine

/-! PROOFS. The sync tracker (R204 to R212): what each handler does to the mode, what each does to the resolved lines, and that a
scan resolves all of them; the two claims stand behind their laws. -/

namespace Sys2Proof.Machine

/-! ### What the handlers do to the mode -/

@[simp] theorem countShort_st (pos : Int) (t : Tracker) : (countShort pos t).st = t.st := rfl

/-- The short-period count changes the mode in two cases and keeps the count (R205, R206). -/
theorem shortModes_cases (t : Tracker) :
    (t.st = .lockedH ∧ 3 ≤ t.shortc ∧ shortModes t = { t with st := .searchingV })
    ∨ (t.st = .searchingV ∧ t.shortc = 0 ∧ shortModes t = { t with st := .lockedH })
    ∨ (¬ (t.st = .lockedH ∧ 3 ≤ t.shortc) ∧ ¬ (t.st = .searchingV ∧ t.shortc = 0) ∧ shortModes t = t) := by
  unfold shortModes shortN
  split
  · next h => exact .inl ⟨h.1, h.2, rfl⟩
  · next h =>
    split
    · next h' => exact .inr (.inl ⟨h'.1, h'.2, rfl⟩)
    · next h' => exact .inr (.inr ⟨h, h', rfl⟩)

/-- Outside SEARCHING_H the horizontal search does nothing (R205). -/
theorem searchLine_of_ne {t : Tracker} (h : t.st ≠ .searchingH) (pos : Int) : searchLine pos t = t := if_neg h

/-- In SEARCHING_H the search locks on the second good period, or counts (R207). -/
theorem searchLine_searchingH {t : Tracker} (h : t.st = .searchingH) (pos : Int) :
    (∃ good, 2 ≤ good
      ∧ searchLine pos t = { t with good := good, cand := some pos, st := .lockedH, miss := 0, hnext := pos })
    ∨ ∃ good < 2, searchLine pos t = { t with good := good, cand := some pos } := by
  unfold searchLine
  rw [if_pos h]
  dsimp only [lockN]
  generalize (if follows t.cand pos hres = true then t.good + 1 else 0) = good
  split
  · next locks => exact .inl ⟨good, locks, rfl⟩
  · next counts => exact .inr ⟨good, by omega, rfl⟩

/-- The horizontal tracking keeps the mode and both counts (R208). -/
theorem trackLine_keeps (pos : Int) (t : Tracker) :
    (trackLine pos t).st = t.st ∧ (trackLine pos t).good = t.good ∧ (trackLine pos t).shortc = t.shortc := by
  unfold trackLine
  split <;> exact ⟨rfl, rfl, rfl⟩

/-- Outside SEARCHING_H the mode after a falling edge is that of the short-period count (R205). -/
theorem fall_of_ne {pos : Int} {t : Tracker} (h : (shortModes (countShort pos t)).st ≠ .searchingH) :
    (fall pos t).st = (shortModes (countShort pos t)).st
      ∧ (fall pos t).shortc = (shortModes (countShort pos t)).shortc := by
  rw [fall, searchLine_of_ne h]
  obtain ⟨st, -, shortc⟩ := trackLine_keeps pos (shortModes (countShort pos t))
  exact ⟨st, shortc⟩

theorem fall_searchingH {pos : Int} {t : Tracker} (h : t.st = .searchingH) :
    ((fall pos t).st = .lockedH ∧ 2 ≤ (fall pos t).good)
      ∨ ((fall pos t).st = .searchingH ∧ (fall pos t).good < 2) := by
  have kept : shortModes (countShort pos t) = countShort pos t := by
    simpa [h] using shortModes_cases (countShort pos t)
  rw [fall, kept]
  obtain ⟨st, good, -⟩ := trackLine_keeps pos (searchLine pos (countShort pos t))
  rw [st, good]
  rcases searchLine_searchingH (t := countShort pos t) h pos with ⟨g, hg, e⟩ | ⟨g, hg, e⟩
  · rw [e]
    exact .inl ⟨rfl, hg⟩
  · rw [e]
    exact .inr ⟨h, hg⟩

theorem fall_lockedH {pos : Int} {t : Tracker} (h : t.st = .lockedH) :
    ((fall pos t).st = .searchingV ∧ 3 ≤ (fall pos t).shortc)
      ∨ ((fall pos t).st = .lockedH ∧ (fall pos t).shortc < 3) := by
  have modes := shortModes_cases (countShort pos t)
  rcases modes with ⟨-, many, e⟩ | ⟨other, -, -⟩ | ⟨few, -, e⟩
  · obtain ⟨st, shortc⟩ := fall_of_ne (pos := pos) (t := t) (by rw [e]; exact nofun)
    rw [st, shortc, e]
    exact .inl ⟨rfl, many⟩
  · rw [countShort_st, h] at other
    cases other
  · obtain ⟨st, shortc⟩ := fall_of_ne (pos := pos) (t := t) (by rw [e, countShort_st, h]; decide)
    rw [st, shortc, e]
    exact .inr ⟨h, not_le.1 fun many => few ⟨h, many⟩⟩

theorem fall_searchingV {pos : Int} {t : Tracker} (h : t.st = .searchingV) :
    ((fall pos t).st = .lockedH ∧ (fall pos t).shortc = 0)
      ∨ ((fall pos t).st = .searchingV ∧ 0 < (fall pos t).shortc) := by
  have modes := shortModes_cases (countShort pos t)
  rcases modes with ⟨other, -, -⟩ | ⟨-, none, e⟩ | ⟨-, some, e⟩
  · rw [countShort_st, h] at other
    cases other
  · obtain ⟨st, shortc⟩ := fall_of_ne (pos := pos) (t := t) (by rw [e]; exact nofun)
    rw [st, shortc, e]
    exact .inl ⟨rfl, none⟩
  · obtain ⟨st, shortc⟩ := fall_of_ne (pos := pos) (t := t) (by rw [e, countShort_st, h]; decide)
    rw [st, shortc, e]
    exact .inr ⟨h, Nat.pos_of_ne_zero fun none => some ⟨h, none⟩⟩

theorem fall_lockedField {pos : Int} {t : Tracker} (h : t.st = .lockedField) : (fall pos t).st = .lockedField := by
  have kept : shortModes (countShort pos t) = countShort pos t := by
    simpa [h] using shortModes_cases (countShort pos t)
  have st := (fall_of_ne (pos := pos) (t := t) (by rw [kept, countShort_st, h]; decide)).1
  rw [st, kept, countShort_st, h]

/-- A rising edge confirms the boundary after a broad pulse in SEARCHING_V, and does nothing else (R209). -/
theorem rise_cases (pos : Int) (t : Tracker) :
    ((t.st = .searchingV ∧ ∃ e, t.lastfall = some e ∧ 200 ≤ pos - e)
      ∧ rise pos t = { t with st := .lockedField, vfound := true, vline := (t.m : Int) - 1 })
    ∨ (¬ (t.st = .searchingV ∧ ∃ e, t.lastfall = some e ∧ 200 ≤ pos - e) ∧ rise pos t = t) := by
  unfold rise broadMin
  cases hl : t.lastfall with
  | none => exact .inr ⟨by simp, rfl⟩
  | some e =>
    dsimp only
    split
    · next h => exact .inl ⟨⟨h.1, e, rfl, h.2⟩, rfl⟩
    · next h => exact .inr ⟨by simpa using h, rfl⟩

/-- A line that is due is resolved where it was expected; outside SEARCHING_H a miss is counted, and the fourth loses the lock
(R210). -/
theorem timeout_cases (j : Nat) (t : Tracker) :
    (¬ (t.m < 270 ∧ t.hnext + 15 ≤ (j : Int)) ∧ timeout j t = t)
    ∨ ((t.m < 270 ∧ t.hnext + 15 ≤ (j : Int))
      ∧ ((t.st = .searchingH
          ∧ timeout j t = { t with edges := t.edges ++ [t.hnext], m := t.m + 1, hnext := t.hnext + 910 })
        ∨ (t.st ≠ .searchingH ∧ 4 ≤ t.miss + 1
          ∧ timeout j t = { t with
              edges := t.edges ++ [t.hnext], m := t.m + 1, hnext := t.hnext + 910, miss := t.miss + 1
              st := .searchingH, good := 0, cand := none })
        ∨ (t.st ≠ .searchingH ∧ t.miss + 1 < 4
          ∧ timeout j t = { t with
              edges := t.edges ++ [t.hnext], m := t.m + 1, hnext := t.hnext + 910, miss := t.miss + 1 }))) := by
  unfold timeout nl missMax hres
  split
  · next due =>
    refine .inr ⟨due, ?_⟩
    dsimp only
    split
    · next locked =>
      split
      · next lost => exact .inr (.inl ⟨locked, lost, rfl⟩)
      · next kept => exact .inr (.inr ⟨locked, not_le.1 kept, rfl⟩)
    · next searching => exact .inl ⟨not_not.1 searching, rfl⟩
  · next early => exact .inl ⟨early, rfl⟩

/-- The slicer reaches an edge handler on the eighth sample against the debounced level, and else moves the run counter alone
(R204). -/
theorem slice_cases (x : Int) (j : Nat) (t : Tracker) :
    ((if decide (x < -20) = t.lvl then 0 else t.run + 1) ≠ 8
      ∧ slice x j t = { t with run := if decide (x < -20) = t.lvl then 0 else t.run + 1 })
    ∨ ((if decide (x < -20) = t.lvl then 0 else t.run + 1) = 8
      ∧ slice x j t = if x < -20 then fall ((j : Int) - 7) { t with lvl := true, run := 0 }
          else rise ((j : Int) - 7) { t with lvl := false, run := 0 }) := by
  have level : (if (decide (x < -20) != t.lvl) = true then t.run + 1 else 0)
      = if decide (x < -20) = t.lvl then 0 else t.run + 1 := by
    by_cases h : decide (x < -20) = t.lvl <;> simp [h]
  unfold slice deb tSync
  dsimp only
  rw [level]
  generalize (if decide (x < -20) = t.lvl then 0 else t.run + 1) = run
  split
  · next eighth =>
    refine .inr ⟨eighth, ?_⟩
    by_cases low : x < -20 <;> simp [low]
  · next other => exact .inl ⟨other, rfl⟩

/-- Settles O31: each handler by the list of what it can do. -/
theorem trackerTransitions : Obligations.TrackerTransitions := by
  refine ⟨fun pos t => ⟨fall_searchingH, fall_lockedH, fall_searchingV, fall_lockedField⟩, fun pos t => ?rise,
    fun j t => ?timeout, fun x j t => ⟨rfl, fun h => ?run, fun h => ?edge⟩⟩
  case rise =>
    rcases rise_cases pos t with ⟨⟨st, broad⟩, e⟩ | ⟨no, e⟩
    · rw [e]
      exact .inl ⟨rfl, rfl, st, broad⟩
    · exact .inr ⟨e, no⟩
  case timeout =>
    rcases timeout_cases j t with ⟨early, e⟩ | ⟨due, ⟨st, e⟩ | ⟨st, miss, e⟩ | ⟨st, miss, e⟩⟩ <;> rw [e]
    · exact .inr ⟨rfl, fun _ hm hj => absurd ⟨hm, hj⟩ early⟩
    · exact .inr ⟨rfl, fun locked => absurd st locked⟩
    · exact .inl ⟨rfl, st, miss⟩
    · exact .inr ⟨rfl, fun _ _ _ => miss⟩
  case run => exact ((slice_cases x j t).resolve_right fun ⟨eighth, _⟩ => h eighth).2
  case edge =>
    rw [((slice_cases x j t).resolve_left fun ⟨other, _⟩ => other h).2]
    by_cases low : x < -20 <;> simp [low]

/-! ### What the handlers do to the resolved lines -/

/-- The resolved lines and the next expected edge are the same. -/
def SameLines (t u : Tracker) : Prop := u.edges = t.edges ∧ u.m = t.m ∧ u.hnext = t.hnext

/-- One more line is resolved, with its edge at `e` and the next expected a line later (R208, R210). -/
def ResolvesAt (e : Int) (t u : Tracker) : Prop := u.edges = t.edges ++ [e] ∧ u.m = t.m + 1 ∧ u.hnext = e + 910

theorem shortModes_lines (t : Tracker) : SameLines t (shortModes t) := by
  rcases shortModes_cases t with ⟨-, -, e⟩ | ⟨-, -, e⟩ | ⟨-, -, e⟩ <;> rw [e] <;> exact ⟨rfl, rfl, rfl⟩

/-- A tracked edge resolves the line where it lies (R208). -/
theorem trackLine_lines (pos : Int) (t : Tracker) :
    ((t.st = .searchingH ∨ 8 < |pos - t.hnext|) ∧ trackLine pos t = t) ∨ ResolvesAt pos t (trackLine pos t) := by
  unfold trackLine hTol
  split
  · exact .inr ⟨rfl, rfl, rfl⟩
  · next no => exact .inl ⟨by rwa [not_and_or, not_not, not_le] at no, rfl⟩

/-- A falling edge resolves at most one line, where the edge lies (R205). -/
theorem fall_lines (pos : Int) (t : Tracker) : SameLines t (fall pos t) ∨ ResolvesAt pos t (fall pos t) := by
  obtain ⟨edges, m, hnext⟩ := shortModes_lines (countShort pos t)
  have tracked (u : Tracker) (he : u.edges = t.edges) (hm : u.m = t.m) (hh : u.hnext = t.hnext) :
      SameLines t (trackLine pos u) ∨ ResolvesAt pos t (trackLine pos u) := by
    rcases trackLine_lines pos u with ⟨-, e⟩ | ⟨e₁, e₂, e₃⟩
    · rw [e]
      exact .inl ⟨he, hm, hh⟩
    · exact .inr ⟨by rw [e₁, he], by rw [e₂, hm], e₃⟩
  rw [fall]
  generalize shortModes (countShort pos t) = u at *
  by_cases hu : u.st = .searchingH
  · rcases searchLine_searchingH hu pos with ⟨good, -, locked⟩ | ⟨good, -, counted⟩
    · rw [locked]
      rcases trackLine_lines pos { u with good := good, cand := some pos, st := .lockedH, miss := 0, hnext := pos } with
        ⟨far | far, -⟩ | ⟨e₁, e₂, e₃⟩
      · cases far
      · simp at far
      · exact .inr ⟨by rw [e₁, ← show u.edges = t.edges from edges], by rw [e₂, ← show u.m = t.m from m], e₃⟩
    · rw [counted]
      exact tracked _ edges m hnext
  · rw [searchLine_of_ne hu]
    exact tracked u edges m hnext

/-- A sample resolves at most one line before its timeout, with the edge seven samples back (R204, R205). -/
theorem slice_lines (x : Int) (j : Nat) (t : Tracker) :
    SameLines t (slice x j t) ∨ ResolvesAt ((j : Int) - 7) t (slice x j t) := by
  rcases slice_cases x j t with ⟨-, e⟩ | ⟨-, e⟩ <;> rw [e]
  · exact .inl ⟨rfl, rfl, rfl⟩
  · split
    · exact fall_lines _ { t with lvl := true, run := 0 }
    · rcases rise_cases ((j : Int) - 7) { t with lvl := false, run := 0 } with ⟨-, e⟩ | ⟨-, e⟩ <;> rw [e] <;>
        exact .inl ⟨rfl, rfl, rfl⟩

/-- The timeout leaves no line overdue (R210). -/
theorem timeout_lines (j : Nat) (t : Tracker) :
    (SameLines t (timeout j t) ∧ (t.m < 270 → (j : Int) < t.hnext + 15))
    ∨ (t.m < 270 ∧ ResolvesAt t.hnext t (timeout j t)) := by
  rcases timeout_cases j t with ⟨early, e⟩ | ⟨⟨hm, -⟩, ⟨-, e⟩ | ⟨-, -, e⟩ | ⟨-, -, e⟩⟩ <;> rw [e]
  · exact .inl ⟨⟨rfl, rfl, rfl⟩, fun hm => not_le.1 fun due => early ⟨hm, due⟩⟩
  · exact .inr ⟨hm, rfl, rfl, rfl⟩
  · exact .inr ⟨hm, rfl, rfl, rfl⟩
  · exact .inr ⟨hm, rfl, rfl, rfl⟩

/-! ### A scan resolves every line -/

/-- The resolved lines are in order: as many edges as lines, the last a line before the next expected one, and no gap above
918 samples, the first measured from index 21 (R211). -/
structure LinesOk (t : Tracker) : Prop where
  length_eq : t.edges.length = t.m
  last_eq : ∀ i, i + 1 = t.m → t.edges.getD i 0 = t.hnext - 910
  gap_le : ∀ i, i + 1 < t.m → t.edges.getD (i + 1) 0 - t.edges.getD i 0 ≤ 918
  hnext_le : t.hnext ≤ 21 + 918 * t.m

theorem LinesOk.same {t u : Tracker} (ht : LinesOk t) (h : SameLines t u) : LinesOk u := by
  obtain ⟨edges, m, hnext⟩ := h
  obtain ⟨length_eq, last_eq, gap_le, hnext_le⟩ := ht
  rw [← m] at length_eq last_eq gap_le hnext_le
  rw [← edges] at length_eq last_eq gap_le
  rw [← hnext] at last_eq hnext_le
  exact ⟨length_eq, last_eq, gap_le, hnext_le⟩

/-- A line resolved at most 8 samples late keeps the lines in order. -/
theorem LinesOk.resolves {t u : Tracker} (ht : LinesOk t) {e : Int} (he : e ≤ t.hnext + 8) (h : ResolvesAt e t u) :
    LinesOk u := by
  obtain ⟨edges, m, hnext⟩ := h
  have old {i : Nat} (hi : i < t.m) : u.edges.getD i 0 = t.edges.getD i 0 := by
    rw [edges, List.getD_append _ _ _ _ (by rw [ht.length_eq]; exact hi)]
  have new : u.edges.getD t.m 0 = e := by
    rw [edges, List.getD_append_right _ _ _ _ (by rw [ht.length_eq]), ht.length_eq, Nat.sub_self, List.getD_cons_zero]
  refine ⟨by rw [edges, m, List.length_append, ht.length_eq, List.length_singleton], fun i hi => ?_, fun i hi => ?_, ?_⟩
  · obtain rfl : i = t.m := by omega
    rw [new, hnext]
    omega
  · by_cases last : i + 1 = t.m
    · rw [last, new, old (by omega), ht.last_eq i last]
      omega
    · rw [old (by omega), old (by omega)]
      exact ht.gap_le i (by omega)
  · have := ht.hnext_le
    rw [m, hnext]
    push_cast
    omega

/-- The invariant of the scan before sample `j`: no line is overdue (R210, R211). -/
structure ScanOk (j : Nat) (t : Tracker) : Prop where
  lines : LinesOk t
  m_le : t.m ≤ 270
  due : t.m < 270 → (j : Int) ≤ t.hnext + 15

theorem scanStep_ok {x : Int} {j : Nat} {t : Tracker} (h : ScanOk j t) (hm : t.m < 270) :
    ScanOk (j + 1) (scanStep x j t) := by
  have due := h.due hm
  have sliced : LinesOk (slice x j t) ∧ (slice x j t).m ≤ 270 ∧ (j : Int) ≤ (slice x j t).hnext + 15 := by
    rcases slice_lines x j t with same | resolved
    · have lines := h.lines.same same
      obtain ⟨-, m, hnext⟩ := same
      exact ⟨lines, by omega, by omega⟩
    · have lines := h.lines.resolves (by omega) resolved
      obtain ⟨-, m, hnext⟩ := resolved
      exact ⟨lines, by omega, by omega⟩
  obtain ⟨lines, m_le, notYet⟩ := sliced
  rw [scanStep]
  rcases timeout_lines j (slice x j t) with ⟨same, early⟩ | ⟨open_, resolved⟩
  · have lines' := lines.same same
    obtain ⟨-, m, hnext⟩ := same
    refine ⟨lines', by omega, fun hm' => ?_⟩
    have := early (by omega)
    push_cast
    omega
  · have lines' := lines.resolves (by omega) resolved
    obtain ⟨-, m, hnext⟩ := resolved
    refine ⟨lines', by omega, fun _ => ?_⟩
    push_cast
    omega

/-- A scan that may go on to index 247883 ends with every line resolved: an unresolved line `m` would be overdue from index
`36 + 918·m` on. -/
theorem scan_ok (x : Nat → Int) (fuel : Nat) :
    ∀ (j : Nat) (t : Tracker), ScanOk j t → 247883 ≤ j + fuel →
      (scan x fuel j t).m = 270 ∧ LinesOk (scan x fuel j t) := by
  induction fuel with
  | zero =>
    intro j t h enough
    have all : ¬ t.m < 270 := fun hm => by
      have := h.due hm
      have := h.lines.hnext_le
      omega
    have := h.m_le
    exact ⟨show t.m = 270 by omega, h.lines⟩
  | succ fuel ih =>
    intro j t h enough
    rw [scan]
    split
    · next hm => exact ih (j + 1) _ (scanStep_ok h hm) (by omega)
    · next hm =>
      have : ¬ t.m < 270 := hm
      have := h.m_le
      exact ⟨by omega, h.lines⟩

theorem trackerStart_ok : ScanOk 0 trackerStart :=
  ⟨⟨rfl, by simp [trackerStart], by simp [trackerStart], by decide⟩, by decide, fun _ => by decide⟩

theorem runScan_ok (raw : Nat → Int) (hs0 vs0 : Nat) : (runScan raw hs0 vs0).m = 270 ∧ LinesOk (runScan raw hs0 vs0) := by
  unfold runScan
  exact scan_ok _ scanBound 0 trackerStart trackerStart_ok (by decide)

/-- Settles O28: the scan ends with the lines in order. -/
theorem scanResolvesEveryLine : Obligations.ScanResolvesEveryLine := by
  intro raw hs0 vs0
  obtain ⟨m, lines⟩ := runScan_ok raw hs0 vs0
  exact ⟨m, lines.length_eq.trans m, fun i hi => lines.gap_le i (by omega)⟩

end Sys2Proof.Machine

/-! PROOFS. The sync tracker on a clean field (R216). First how a scan runs through stretches of one level, then the pulses of a
line, then the trackers a clean field takes it through, then the claim. -/

namespace Sys2Proof.Machine

/-! ### Stretches of a scan -/

/-- The scan that stands before sample `j` with tracker `t` comes to stand before sample `k` with tracker `u`. -/
def Reaches (x : Nat → Int) (j : Nat) (t : Tracker) (k : Nat) (u : Tracker) : Prop :=
  ∃ n, k = j + n ∧ ∀ fuel, scan x (fuel + n) j t = scan x fuel k u

theorem Reaches.refl (x : Nat → Int) (j : Nat) (t : Tracker) : Reaches x j t j t := ⟨0, rfl, fun _ => rfl⟩

theorem Reaches.trans {x : Nat → Int} {i j k : Nat} {t u v : Tracker} (h₁ : Reaches x i t j u) (h₂ : Reaches x j u k v) :
    Reaches x i t k v := by
  obtain ⟨m, rfl, e₁⟩ := h₁
  obtain ⟨n, rfl, e₂⟩ := h₂
  refine ⟨n + m, by omega, fun fuel => ?_⟩
  rw [← Nat.add_assoc, e₁, e₂]

theorem reaches_step {x : Nat → Int} {j : Nat} {t : Tracker} (hm : t.m < 270) :
    Reaches x j t (j + 1) (scanStep (x j) j t) := by
  refine ⟨1, rfl, fun fuel => ?_⟩
  rw [scan, if_pos hm]

/-- A scan with every line resolved stands still (R203). -/
theorem scan_done {t : Tracker} (hm : t.m = 270) (x : Nat → Int) (fuel j : Nat) : scan x fuel j t = t := by
  cases fuel with
  | zero => rfl
  | succ fuel => rw [scan, if_neg (by rw [hm]; decide)]

/-- A sample on the debounced level, with no run pending, changes nothing (R204). -/
theorem slice_of_level {x : Int} {t : Tracker} (hx : decide (x < -20) = t.lvl) (hr : t.run = 0) (j : Nat) :
    slice x j t = t := by
  rcases slice_cases x j t with ⟨-, e⟩ | ⟨eighth, -⟩
  · rw [e, if_pos hx, ← hr]
  · rw [if_pos hx] at eighth
    cases eighth

/-- On the debounced level the scan goes on with the same tracker until the next line is due. -/
theorem reaches_level {x : Nat → Int} {t : Tracker} (hr : t.run = 0) (hm : t.m < 270) {j k : Nat} (hjk : j ≤ k)
    (hx : ∀ i, j ≤ i → i < k → decide (x i < -20) = t.lvl) (hk : (k : Int) ≤ t.hnext + 15) : Reaches x j t k t := by
  induction k, hjk using Nat.le_induction with
  | base => exact .refl x j t
  | succ k hjk ih =>
    have before := ih (fun i hj hi => hx i hj (by omega)) (by push_cast at hk; omega)
    have step := reaches_step (x := x) (j := k) hm
    rw [scanStep, slice_of_level (hx k hjk (by omega)) hr, timeout_early (by push_cast at hk; omega)] at step
    exact before.trans step

/-- On the debounced level a sample leaves the tracker to the timeout. -/
theorem reaches_timeout {x : Nat → Int} {t : Tracker} (hr : t.run = 0) (hm : t.m < 270) {j : Nat}
    (hx : decide (x j < -20) = t.lvl) : Reaches x j t (j + 1) (timeout j t) := by
  have step := reaches_step (x := x) (j := j) hm
  rwa [scanStep, slice_of_level hx hr] at step

/-- Up to seven samples against the debounced level count the run and change nothing else (R204). -/
theorem reaches_run {x : Nat → Int} {t : Tracker} (hr : t.run = 0) (hm : t.m < 270) {j : Nat} (n : Nat) (hn : n ≤ 7)
    (hx : ∀ i, j ≤ i → i < j + n → decide (x i < -20) ≠ t.lvl) (hj : (j : Int) + 8 ≤ t.hnext + 15) :
    Reaches x j t (j + n) { t with run := n } := by
  induction n with
  | zero =>
    have same : { t with run := 0 } = t := by rw [← hr]
    rw [same]
    exact .refl x j t
  | succ n ih =>
    have before := ih (by omega) fun i hi hn => hx i hi (by omega)
    have step := reaches_step (x := x) (j := j + n) (t := { t with run := n }) hm
    have against := hx (j + n) (by omega) (by omega)
    have sliced : slice (x (j + n)) (j + n) { t with run := n } = { t with run := n + 1 } := by
      rcases slice_cases (x (j + n)) (j + n) { t with run := n } with ⟨-, e⟩ | ⟨eighth, -⟩
      · rw [e, if_neg against]
      · rw [if_neg against] at eighth
        dsimp only at eighth
        omega
    have early : ((j + n : Nat) : Int) < t.hnext + 15 := by push_cast; omega
    rw [scanStep, sliced, timeout_early (t := { t with run := n + 1 }) early] at step
    exact before.trans step

/-- What the falling edge at `pos` makes of a tracker on the high level. -/
def fallAt (pos : Int) (t : Tracker) : Tracker := fall pos { t with lvl := true, run := 0 }

/-- What the rising edge at `pos` makes of a tracker on the low level. -/
def riseAt (pos : Int) (t : Tracker) : Tracker := rise pos { t with lvl := false, run := 0 }

/-- Eight samples against the debounced level are an edge at the first of them (R204). -/
theorem reaches_edge {x : Nat → Int} {t : Tracker} (hr : t.run = 0) (hm : t.m < 270) {j : Nat}
    (hx : ∀ i, j ≤ i → i < j + 8 → decide (x i < -20) ≠ t.lvl) (hj : (j : Int) + 8 ≤ t.hnext + 15)
    (hj' : (j : Int) + 8 ≤ (if t.lvl then riseAt j t else fallAt j t).hnext + 15) :
    Reaches x j t (j + 8) (if t.lvl then riseAt j t else fallAt j t) := by
  have before := reaches_run hr hm 7 le_rfl (fun i hi hn => hx i hi (by omega)) hj
  have step := reaches_step (x := x) (j := j + 7) (t := { t with run := 7 }) hm
  have against := hx (j + 7) (by omega) (by omega)
  have pos : ((j + 7 : Nat) : Int) - 7 = j := by push_cast; omega
  have sliced : slice (x (j + 7)) (j + 7) { t with run := 7 } = if t.lvl then riseAt j t else fallAt j t := by
    rcases slice_cases (x (j + 7)) (j + 7) { t with run := 7 } with ⟨short, -⟩ | ⟨-, e⟩
    · rw [if_neg against] at short
      exact absurd rfl short
    · rw [e, pos]
      by_cases low : x (j + 7) < -20
      · have high : t.lvl = false := by simpa [low] using against
        rw [if_pos low, high]
        rfl
      · have high : t.lvl = true := by simpa [low] using against
        rw [if_neg low, high]
        rfl
  have early : ((j + 7 : Nat) : Int) < (if t.lvl then riseAt j t else fallAt j t).hnext + 15 := by push_cast; omega
  rw [scanStep, sliced, timeout_early early] at step
  exact before.trans step

theorem reaches_fall {x : Nat → Int} {t : Tracker} (hl : t.lvl = false) (hr : t.run = 0) (hm : t.m < 270) {j : Nat}
    (hx : ∀ i, j ≤ i → i < j + 8 → x i < -20) (hj : (j : Int) + 8 ≤ t.hnext + 15)
    (hj' : (j : Int) + 8 ≤ (fallAt j t).hnext + 15) : Reaches x j t (j + 8) (fallAt j t) := by
  have edge := reaches_edge (x := x) (j := j) hr hm (fun i hi hn => by simp [hl, hx i hi hn]) hj
  simp only [hl, Bool.false_eq_true, if_false] at edge
  exact edge hj'

theorem reaches_rise {x : Nat → Int} {t : Tracker} (hl : t.lvl = true) (hr : t.run = 0) (hm : t.m < 270) {j : Nat}
    (hx : ∀ i, j ≤ i → i < j + 8 → ¬ x i < -20) (hj : (j : Int) + 8 ≤ t.hnext + 15)
    (hj' : (j : Int) + 8 ≤ (riseAt j t).hnext + 15) : Reaches x j t (j + 8) (riseAt j t) := by
  have edge := reaches_edge (x := x) (j := j) hr hm (fun i hi hn => by simp [hl, hx i hi hn]) hj
  simp only [hl, if_true] at edge
  exact edge hj'

/-! ### The edges keep what they do not set -/

/-- A falling edge keeps the level and the run counter, and what a boundary found (R205). -/
theorem fall_keeps (pos : Int) (t : Tracker) :
    (fall pos t).lvl = t.lvl ∧ (fall pos t).run = t.run ∧ (fall pos t).vfound = t.vfound
      ∧ (fall pos t).vline = t.vline := by
  have counted : (countShort pos t).lvl = t.lvl ∧ (countShort pos t).run = t.run ∧ (countShort pos t).vfound = t.vfound
      ∧ (countShort pos t).vline = t.vline := ⟨rfl, rfl, rfl, rfl⟩
  unfold fall trackLine searchLine
  rcases shortModes_cases (countShort pos t) with ⟨-, -, e⟩ | ⟨-, -, e⟩ | ⟨-, -, e⟩ <;> rw [e] <;> dsimp only <;>
    repeat' split
  all_goals exact counted

/-- A rising edge keeps the level, the run counter and the lines (R209). -/
theorem rise_keeps (pos : Int) (t : Tracker) :
    (rise pos t).lvl = t.lvl ∧ (rise pos t).run = t.run ∧ SameLines t (rise pos t) := by
  rcases rise_cases pos t with ⟨-, e⟩ | ⟨-, e⟩ <;> rw [e] <;> exact ⟨rfl, rfl, rfl, rfl, rfl⟩

/-- The timeout keeps the level and the run counter (R210). -/
theorem timeout_keeps (j : Nat) (t : Tracker) : (timeout j t).lvl = t.lvl ∧ (timeout j t).run = t.run := by
  rcases timeout_cases j t with ⟨-, e⟩ | ⟨-, ⟨-, e⟩ | ⟨-, -, e⟩ | ⟨-, -, e⟩⟩ <;> rw [e] <;> exact ⟨rfl, rfl⟩

theorem fallAt_level (pos : Int) (t : Tracker) : (fallAt pos t).lvl = true ∧ (fallAt pos t).run = 0 := by
  obtain ⟨lvl, run, -, -⟩ := fall_keeps pos { t with lvl := true, run := 0 }
  exact ⟨lvl, run⟩

theorem riseAt_level (pos : Int) (t : Tracker) : (riseAt pos t).lvl = false ∧ (riseAt pos t).run = 0 := by
  obtain ⟨lvl, run, -⟩ := rise_keeps pos { t with lvl := false, run := 0 }
  exact ⟨lvl, run⟩

theorem riseAt_lines (pos : Int) (t : Tracker) : SameLines t (riseAt pos t) :=
  (rise_keeps pos { t with lvl := false, run := 0 }).2.2

theorem fallAt_lines (pos : Int) (t : Tracker) : SameLines t (fallAt pos t) ∨ ResolvesAt pos t (fallAt pos t) :=
  fall_lines pos { t with lvl := true, run := 0 }

/-- Outside SEARCHING_H a falling edge is the tracking step on a tracker with the same lines, again outside SEARCHING_H
(R205). -/
theorem fallAt_of_ne {t : Tracker} (hst : t.st ≠ .searchingH) (pos : Int) :
    ∃ u, fallAt pos t = trackLine pos u ∧ u.st ≠ .searchingH ∧ SameLines t u := by
  refine ⟨shortModes (countShort pos { t with lvl := true, run := 0 }), ?_, ?_,
    shortModes_lines (countShort pos { t with lvl := true, run := 0 })⟩
  all_goals have modes := shortModes_cases (countShort pos { t with lvl := true, run := 0 })
  all_goals
    have ne : (shortModes (countShort pos { t with lvl := true, run := 0 })).st ≠ .searchingH := by
      rcases modes with ⟨-, -, e⟩ | ⟨-, -, e⟩ | ⟨-, -, e⟩ <;> rw [e]
      · exact nofun
      · exact nofun
      · exact hst
  · rw [fallAt, fall, searchLine_of_ne ne]
  · exact ne

/-- Locked to lines, a falling edge where the next is expected resolves the line (R208). -/
theorem fallAt_expected {t : Tracker} (hst : t.st ≠ .searchingH) : ResolvesAt t.hnext t (fallAt t.hnext t) := by
  obtain ⟨u, e, ne, edges, m, hnext⟩ := fallAt_of_ne hst t.hnext
  rw [e]
  rcases trackLine_lines t.hnext u with ⟨search | far, -⟩ | ⟨e₁, e₂, e₃⟩
  · exact absurd search ne
  · rw [hnext, sub_self, abs_zero] at far
    cases far
  · exact ⟨by rw [e₁, edges], by rw [e₂, m], e₃⟩

/-- Locked to lines, a falling edge far from the next expected one resolves nothing (R208). -/
theorem fallAt_far {t : Tracker} (hst : t.st ≠ .searchingH) {pos : Int} (far : 8 < |pos - t.hnext|) :
    SameLines t (fallAt pos t) := by
  obtain ⟨u, e, ne, edges, m, hnext⟩ := fallAt_of_ne hst pos
  have untracked : trackLine pos u = u := if_neg fun ⟨_, near⟩ => absurd near (not_le.2 (by rw [hnext]; exact far))
  rw [e, untracked]
  exact ⟨edges, m, hnext⟩

/-! ### The pulses of a line -/

/-- The tracker after `l` lines, each with its edge where it was expected (R216). -/
structure Nominal (l : Nat) (t : Tracker) : Prop where
  m_eq : t.m = l
  hnext_eq : t.hnext = 21 + 910 * l
  edges_eq : t.edges = (List.range l).map fun i : Nat => 21 + 910 * (i : Int)

theorem Nominal.same {l : Nat} {t u : Tracker} (ht : Nominal l t) (h : SameLines t u) : Nominal l u := by
  obtain ⟨edges, m, hnext⟩ := h
  exact ⟨m.trans ht.m_eq, hnext.trans ht.hnext_eq, edges.trans ht.edges_eq⟩

theorem Nominal.resolves {l : Nat} {t u : Tracker} (ht : Nominal l t) (h : ResolvesAt t.hnext t u) :
    Nominal (l + 1) u := by
  obtain ⟨edges, m, hnext⟩ := h
  rw [ht.hnext_eq] at edges hnext
  refine ⟨by rw [m, ht.m_eq], by omega, ?_⟩
  rw [edges, ht.edges_eq, List.range_succ, List.map_append, List.map_singleton]

/-- The width of the sync pulses of scan line `l` of a clean field: its lines 8 to 16 are the vertical interval (R144, R203). -/
def pulseWidth (l : Nat) : Nat := if l < 8 ∨ 16 < l then 67 else if 11 ≤ l ∧ l ≤ 13 then 388 else 33

/-- The tracker after the pulse at the head of line `l`: its edges, with the timeout of the line between them. -/
def headPulse (l : Nat) (t : Tracker) : Tracker :=
  riseAt (910 * l + (21 + pulseWidth l) : Nat) (timeout (910 * l + 36) (fallAt (910 * l + 21 : Nat) t))

/-- The tracker after the pulse in the middle of line `l`. -/
def middlePulse (l : Nat) (t : Tracker) : Tracker :=
  riseAt (910 * l + (476 + pulseWidth l) : Nat) (fallAt (910 * l + 476 : Nat) t)

/-- The head pulse resolves its line where it was expected, locked or not: by tracking, or by the timeout (R208, R210). -/
theorem timeout_fallAt_expected {l : Nat} {t : Tracker} (ht : Nominal l t) (hl : l < 270) :
    ResolvesAt t.hnext t (timeout (910 * l + 36) (fallAt (910 * l + 21 : Nat) t)) := by
  have hnext := ht.hnext_eq
  have m := ht.m_eq
  rcases fallAt_lines (910 * l + 21 : Nat) t with ⟨e₁, e₂, e₃⟩ | ⟨e₁, e₂, e₃⟩
  · rcases timeout_lines (910 * l + 36) (fallAt (910 * l + 21 : Nat) t) with ⟨-, early⟩ | ⟨-, r₁, r₂, r₃⟩
    · have := early (by omega)
      omega
    · exact ⟨by rw [r₁, e₁, e₃], by rw [r₂, e₂], by rw [r₃, e₃]⟩
  · have pos : ((910 * l + 21 : Nat) : Int) = t.hnext := by omega
    rw [timeout_early (by omega)]
    rw [pos] at e₁ e₂ e₃ ⊢
    exact ⟨e₁, e₂, e₃⟩

theorem headPulse_nominal {l : Nat} {t : Tracker} (ht : Nominal l t) (hl : l < 270) : Nominal (l + 1) (headPulse l t) :=
  (ht.resolves (timeout_fallAt_expected ht hl)).same (riseAt_lines _ _)

/-- The middle pulse resolves nothing once the tracker is locked to lines (R208). -/
theorem middlePulse_nominal {l : Nat} {t : Tracker} (ht : Nominal (l + 1) t) (hst : t.st ≠ .searchingH) :
    Nominal (l + 1) (middlePulse l t) := by
  have far : 8 < |((910 * l + 476 : Nat) : Int) - t.hnext| := by
    rw [ht.hnext_eq, abs_of_neg] <;> omega
  exact (ht.same (fallAt_far hst far)).same (riseAt_lines _ _)

theorem pulseWidth_range (l : Nat) : 33 ≤ pulseWidth l ∧ pulseWidth l ≤ 388 := by
  unfold pulseWidth
  split
  · decide
  · split <;> decide

/-- The scan runs through the head pulse of a line. -/
theorem reaches_headPulse {x : Nat → Int} {l : Nat} {t : Tracker} (ht : Nominal l t) (hl : l < 269)
    (hlvl : t.lvl = false) (hrun : t.run = 0)
    (hx : ∀ o < 476, x (910 * l + o) < -20 ↔ 21 ≤ o ∧ o < 21 + pulseWidth l) :
    Reaches x (910 * l) t (910 * l + (21 + pulseWidth l) + 8) (headPulse l t) := by
  obtain ⟨wide, narrow⟩ := pulseWidth_range l
  have level (i : Nat) (h₁ : 910 * l ≤ i) (h₂ : i < 910 * l + 476) :
      x i < -20 ↔ 910 * l + 21 ≤ i ∧ i < 910 * l + (21 + pulseWidth l) := by
    obtain ⟨o, rfl⟩ := Nat.exists_eq_add_of_le h₁
    rw [hx o (by omega)]
    omega
  have m := ht.m_eq
  have hnext := ht.hnext_eq
  have resolved := timeout_fallAt_expected ht (by omega)
  obtain ⟨fallLevel, fallRun⟩ := fallAt_level (910 * l + 21 : Nat) t
  obtain ⟨dueLevel, dueRun⟩ := timeout_keeps (910 * l + 36) (fallAt (910 * l + 21 : Nat) t)
  have fallM : (fallAt (910 * l + 21 : Nat) t).m < 270 := by
    rcases fallAt_lines (910 * l + 21 : Nat) t with ⟨-, e, -⟩ | ⟨-, e, -⟩ <;> omega
  have fallNext : 21 + 910 * (l : Int) ≤ (fallAt (910 * l + 21 : Nat) t).hnext := by
    rcases fallAt_lines (910 * l + 21 : Nat) t with ⟨-, -, e⟩ | ⟨-, -, e⟩ <;> omega
  obtain ⟨-, dueM, dueNext⟩ := resolved
  obtain ⟨-, -, riseNext⟩ := riseAt_lines (910 * l + (21 + pulseWidth l) : Nat)
    (timeout (910 * l + 36) (fallAt (910 * l + 21 : Nat) t))
  have toPulse : Reaches x (910 * l) t (910 * l + 21) t :=
    reaches_level hrun (by omega) (by omega)
      (fun i h₁ h₂ => by rw [hlvl, decide_eq_false_iff_not, level i h₁ (by omega)]; omega) (by omega)
  have falls : Reaches x (910 * l + 21) t (910 * l + 29) (fallAt (910 * l + 21 : Nat) t) :=
    reaches_fall hlvl hrun (by omega) (fun i h₁ h₂ => (level i (by omega) (by omega)).2 (by omega)) (by omega) (by omega)
  have low {i : Nat} (h₁ : 910 * l + 21 ≤ i) (h₂ : i < 910 * l + (21 + pulseWidth l)) : decide (x i < -20) = true :=
    decide_eq_true ((level i (by omega) (by omega)).2 ⟨h₁, h₂⟩)
  have toTimeout : Reaches x (910 * l + 29) (fallAt (910 * l + 21 : Nat) t) (910 * l + 36)
      (fallAt (910 * l + 21 : Nat) t) :=
    reaches_level fallRun fallM (by omega) (fun i h₁ h₂ => by rw [fallLevel]; exact low (by omega) (by omega)) (by omega)
  have times : Reaches x (910 * l + 36) (fallAt (910 * l + 21 : Nat) t) (910 * l + 37)
      (timeout (910 * l + 36) (fallAt (910 * l + 21 : Nat) t)) :=
    reaches_timeout fallRun fallM (by rw [fallLevel]; exact low (by omega) (by omega))
  have toRise : Reaches x (910 * l + 37) (timeout (910 * l + 36) (fallAt (910 * l + 21 : Nat) t))
      (910 * l + (21 + pulseWidth l)) (timeout (910 * l + 36) (fallAt (910 * l + 21 : Nat) t)) :=
    reaches_level (dueRun.trans fallRun) (by omega) (by omega)
      (fun i h₁ h₂ => by rw [dueLevel, fallLevel]; exact low (by omega) (by omega)) (by omega)
  have rises : Reaches x (910 * l + (21 + pulseWidth l)) (timeout (910 * l + 36) (fallAt (910 * l + 21 : Nat) t))
      (910 * l + (21 + pulseWidth l) + 8) (headPulse l t) :=
    reaches_rise (dueLevel.trans fallLevel) (dueRun.trans fallRun) (by omega)
      (fun i h₁ h₂ => by rw [level i (by omega) (by omega)]; omega) (by omega) (by omega)
  exact toPulse.trans (falls.trans (toTimeout.trans (times.trans (toRise.trans rises))))

/-- The scan runs through the middle pulse of a line. -/
theorem reaches_middlePulse {x : Nat → Int} {l : Nat} {t : Tracker} (ht : Nominal (l + 1) t) (hl : l < 269)
    (hst : t.st ≠ .searchingH) (hlvl : t.lvl = false) (hrun : t.run = 0) {j : Nat}
    (hj : 910 * l + (21 + pulseWidth l) ≤ j) (hj' : j ≤ 910 * l + 476)
    (hx : ∀ o < 910, 21 + pulseWidth l ≤ o → (x (910 * l + o) < -20 ↔ 476 ≤ o ∧ o < 476 + pulseWidth l)) :
    Reaches x j t (910 * l + (476 + pulseWidth l) + 8) (middlePulse l t) := by
  obtain ⟨wide, narrow⟩ := pulseWidth_range l
  have level (i : Nat) (h₁ : j ≤ i) (h₂ : i < 910 * l + 910) :
      x i < -20 ↔ 910 * l + 476 ≤ i ∧ i < 910 * l + (476 + pulseWidth l) := by
    obtain ⟨o, rfl⟩ := Nat.exists_eq_add_of_le (show 910 * l ≤ i by omega)
    rw [hx o (by omega) (by omega)]
    omega
  have m := ht.m_eq
  have hnext := ht.hnext_eq
  obtain ⟨fallLevel, fallRun⟩ := fallAt_level (910 * l + 476 : Nat) t
  obtain ⟨-, fallM, fallNext⟩ := fallAt_far (pos := (910 * l + 476 : Nat)) hst
    (by rw [hnext, abs_of_neg] <;> omega)
  obtain ⟨-, -, riseNext⟩ := riseAt_lines (910 * l + (476 + pulseWidth l) : Nat) (fallAt (910 * l + 476 : Nat) t)
  have toPulse : Reaches x j t (910 * l + 476) t :=
    reaches_level hrun (by omega) hj'
      (fun i h₁ h₂ => by rw [hlvl, decide_eq_false_iff_not, level i h₁ (by omega)]; omega) (by omega)
  have falls : Reaches x (910 * l + 476) t (910 * l + 484) (fallAt (910 * l + 476 : Nat) t) :=
    reaches_fall hlvl hrun (by omega) (fun i h₁ h₂ => (level i (by omega) (by omega)).2 (by omega)) (by omega) (by omega)
  have toRise : Reaches x (910 * l + 484) (fallAt (910 * l + 476 : Nat) t) (910 * l + (476 + pulseWidth l))
      (fallAt (910 * l + 476 : Nat) t) :=
    reaches_level fallRun (by omega) (by omega)
      (fun i h₁ h₂ => by rw [fallLevel]; exact decide_eq_true ((level i (by omega) (by omega)).2 (by omega))) (by omega)
  have rises : Reaches x (910 * l + (476 + pulseWidth l)) (fallAt (910 * l + 476 : Nat) t)
      (910 * l + (476 + pulseWidth l) + 8) (middlePulse l t) :=
    reaches_rise fallLevel fallRun (by omega) (fun i h₁ h₂ => by rw [level i (by omega) (by omega)]; omega) (by omega)
      (by omega)
  exact toPulse.trans (falls.trans (toRise.trans rises))

/-! ### The lines of a clean field -/

/-- The tracker after line `l` of a clean field: the lines of the vertical interval have two pulses, the others one (R144). -/
def cleanLine (l : Nat) (t : Tracker) : Tracker :=
  if 8 ≤ l ∧ l ≤ 16 then middlePulse l (headPulse l t) else headPulse l t

/-- The tracker before scan line `l` of a clean field. -/
def cleanTrack : Nat → Tracker
  | 0 => trackerStart
  | l + 1 => cleanLine l (cleanTrack l)

/-- The signal is that of a clean field: low in the sync pulses of its 270 scan lines and nowhere else (R216). -/
def CleanScan (x : Nat → Int) : Prop :=
  ∀ l < 270, ∀ o < 910, x (910 * l + o) < -20
    ↔ (21 ≤ o ∧ o < 21 + pulseWidth l) ∨ ((8 ≤ l ∧ l ≤ 16) ∧ 476 ≤ o ∧ o < 476 + pulseWidth l)

/-- The tracker is locked to lines before the first pulse that lies in the middle of one (R207). -/
theorem headPulse_locked : ∀ l < 12, 8 ≤ l → (headPulse l (cleanTrack l)).st ≠ .searchingH := by decide +kernel

/-- The boundary has been found, on scan line 11 (R209, R216). -/
structure FieldLocked (t : Tracker) : Prop where
  st_eq : t.st = .lockedField
  vfound_eq : t.vfound = true
  vline_eq : t.vline = 11

/-- Three short periods and a broad pulse lead from SEARCHING_H to the boundary on scan line 11 (R206, R209). -/
theorem cleanTrack_boundary : FieldLocked (cleanTrack 12) := by
  constructor <;> decide +kernel

theorem FieldLocked.fallAt {t : Tracker} (ht : FieldLocked t) (pos : Int) : FieldLocked (fallAt pos t) := by
  obtain ⟨-, -, vfound, vline⟩ := fall_keeps pos { t with lvl := true, run := 0 }
  exact ⟨fall_lockedField ht.st_eq, vfound.trans ht.vfound_eq, vline.trans ht.vline_eq⟩

theorem FieldLocked.riseAt {t : Tracker} (ht : FieldLocked t) (pos : Int) : FieldLocked (riseAt pos t) := by
  rcases rise_cases pos { t with lvl := false, run := 0 } with ⟨⟨searching, -⟩, -⟩ | ⟨-, e⟩
  · exact absurd (searching.symm.trans ht.st_eq) nofun
  · rw [Machine.riseAt, e]
    exact ⟨ht.st_eq, ht.vfound_eq, ht.vline_eq⟩

/-- Once the boundary is found a line whose edge lies where it was expected keeps it (R212). -/
theorem FieldLocked.headPulse {l : Nat} {t : Tracker} (ht : FieldLocked t) (hn : Nominal l t) :
    FieldLocked (headPulse l t) := by
  have hnext := hn.hnext_eq
  have pos : ((910 * l + 21 : Nat) : Int) = t.hnext := by omega
  obtain ⟨-, -, next⟩ := fallAt_expected (t := t) (by rw [ht.st_eq]; exact nofun)
  rw [Machine.headPulse, pos, timeout_early (by omega)]
  exact (ht.fallAt _).riseAt _

theorem cleanTrack_level (l : Nat) : (cleanTrack l).lvl = false ∧ (cleanTrack l).run = 0 := by
  cases l with
  | zero => exact ⟨rfl, rfl⟩
  | succ l =>
    rw [cleanTrack, cleanLine]
    split <;> exact riseAt_level _ _

/-- The tracker is locked to lines when it meets a pulse in the middle of one. -/
theorem headPulse_ne_searchingH {l : Nat} (hl : 8 ≤ l) (nominal : Nominal l (cleanTrack l))
    (locked : 12 ≤ l → FieldLocked (cleanTrack l)) : (headPulse l (cleanTrack l)).st ≠ .searchingH := by
  by_cases before : l < 12
  · exact headPulse_locked l before hl
  · rw [((locked (by omega)).headPulse nominal).st_eq]
    exact nofun

/-- Each line of a clean field is resolved where it was expected, and once the boundary is found it stays (R216). -/
theorem cleanTrack_nominal (l : Nat) (hl : l ≤ 270) :
    Nominal l (cleanTrack l) ∧ (12 ≤ l → FieldLocked (cleanTrack l)) := by
  induction l with
  | zero => exact ⟨⟨rfl, rfl, rfl⟩, by omega⟩
  | succ l ih =>
    obtain ⟨nominal, locked⟩ := ih (by omega)
    have head := headPulse_nominal nominal (by omega)
    constructor
    · rw [cleanTrack, cleanLine]
      split
      · next interval =>
        exact middlePulse_nominal head (headPulse_ne_searchingH interval.1 nominal locked)
      · exact head
    · intro found
      rcases found.eq_or_lt with boundary | later
      · rw [← boundary]
        exact cleanTrack_boundary
      · have headLocked := (locked (by omega)).headPulse nominal
        rw [cleanTrack, cleanLine]
        split
        · exact (headLocked.fallAt _).riseAt _
        · exact headLocked

/-- The scan runs through a line of a clean field. -/
theorem reaches_cleanLine {x : Nat → Int} (hx : CleanScan x) {l : Nat} (hl : l < 269) :
    Reaches x (910 * l) (cleanTrack l) (910 * (l + 1)) (cleanTrack (l + 1)) := by
  obtain ⟨wide, narrow⟩ := pulseWidth_range l
  obtain ⟨lvl, run⟩ := cleanTrack_level l
  obtain ⟨nominal, locked⟩ := cleanTrack_nominal l (by omega)
  obtain ⟨next, -⟩ := cleanTrack_nominal (l + 1) (by omega)
  obtain ⟨nextLvl, nextRun⟩ := cleanTrack_level (l + 1)
  have m := next.m_eq
  have hnext := next.hnext_eq
  have single (h : ¬ (8 ≤ l ∧ l ≤ 16)) : pulseWidth l = 67 := if_pos (by omega)
  have head := reaches_headPulse nominal hl lvl run fun o ho => by
    rw [hx l (by omega) o (by omega)]
    omega
  have rest {j : Nat} (h₁ : 910 * l + (21 + pulseWidth l) ≤ j) (h₂ : j ≤ 910 * (l + 1))
      (h₃ : 8 ≤ l ∧ l ≤ 16 → 910 * l + (476 + pulseWidth l) ≤ j) :
      Reaches x j (cleanTrack (l + 1)) (910 * (l + 1)) (cleanTrack (l + 1)) := by
    refine reaches_level nextRun (by omega) h₂ (fun i hi hi' => ?_) (by omega)
    obtain ⟨o, rfl⟩ := Nat.exists_eq_add_of_le (show 910 * l ≤ i by omega)
    rw [nextLvl, decide_eq_false_iff_not, hx l (by omega) o (by omega)]
    omega
  by_cases interval : 8 ≤ l ∧ l ≤ 16
  · have line : cleanTrack (l + 1) = middlePulse l (headPulse l (cleanTrack l)) := if_pos interval
    obtain ⟨headLvl, headRun⟩ := riseAt_level (910 * l + (21 + pulseWidth l) : Nat)
      (timeout (910 * l + 36) (fallAt (910 * l + 21 : Nat) (cleanTrack l)))
    have short : pulseWidth l ≤ 388 := narrow
    have middle := reaches_middlePulse (x := x) (j := 910 * l + (21 + pulseWidth l) + 8)
      (headPulse_nominal nominal (by omega)) hl (headPulse_ne_searchingH interval.1 nominal locked) headLvl headRun
      (by omega) (by omega) fun o ho after => by
        rw [hx l (by omega) o ho]
        omega
    rw [← line] at middle
    exact head.trans (middle.trans (rest (by omega) (by omega) fun _ => by omega))
  · have line : cleanTrack (l + 1) = headPulse l (cleanTrack l) := if_neg interval
    rw [← line] at head
    exact head.trans (rest (by omega) (by omega) fun h => absurd h interval)

/-- The scan runs through the first lines of a clean field. -/
theorem reaches_cleanTrack {x : Nat → Int} (hx : CleanScan x) (l : Nat) (hl : l ≤ 269) :
    Reaches x 0 trackerStart (910 * l) (cleanTrack l) := by
  induction l with
  | zero => exact .refl x 0 trackerStart
  | succ l ih => exact (ih (by omega)).trans (reaches_cleanLine hx (by omega))

/-! ### The scan of a clean field -/

/-- A clean field leaves the tracker with the boundary found and every edge where it was expected (R216). -/
theorem scan_clean {x : Nat → Int} (hx : CleanScan x) :
    FieldLocked (scan x scanBound 0 trackerStart) ∧ Nominal 270 (scan x scanBound 0 trackerStart) := by
  obtain ⟨lvl, run⟩ := cleanTrack_level 269
  obtain ⟨nominal, locked⟩ := cleanTrack_nominal 269 (by omega)
  have pos : ((910 * 269 + 21 : Nat) : Int) = (cleanTrack 269).hnext := by rw [nominal.hnext_eq]; rfl
  have resolved := fallAt_expected (t := cleanTrack 269) (by rw [(locked (by omega)).st_eq]; exact nofun)
  rw [← pos] at resolved
  have last := nominal.resolves (by rw [← pos]; exact resolved)
  have m := nominal.m_eq
  have hnext := nominal.hnext_eq
  have lastNext := last.hnext_eq
  have toPulse : Reaches x (910 * 269) (cleanTrack 269) (910 * 269 + 21) (cleanTrack 269) :=
    reaches_level run (by omega) (by omega) (fun i h₁ h₂ => by
      obtain ⟨o, rfl⟩ := Nat.exists_eq_add_of_le h₁
      rw [lvl, decide_eq_false_iff_not, hx 269 (by omega) o (by omega)]
      omega) (by omega)
  have falls : Reaches x (910 * 269 + 21) (cleanTrack 269) (910 * 269 + 21 + 8)
      (fallAt (910 * 269 + 21 : Nat) (cleanTrack 269)) :=
    reaches_fall lvl run (by omega) (fun i h₁ h₂ => by
      obtain ⟨o, rfl⟩ := Nat.exists_eq_add_of_le (show 910 * 269 ≤ i by omega)
      rw [hx 269 (by omega) o (by omega)]
      exact .inl ⟨by omega, Nat.lt_of_lt_of_le (show o < 21 + 33 by omega) (Nat.add_le_add_left (pulseWidth_range 269).1 21)⟩)
      (by omega) (by omega)
  obtain ⟨n, hn, e⟩ := (reaches_cleanTrack hx 269 le_rfl).trans (toPulse.trans falls)
  have enough : scanBound = (scanBound - n) + n := (Nat.sub_add_cancel (by rw [scanBound]; omega)).symm
  rw [enough, e, scan_done last.m_eq]
  exact ⟨(locked (by omega)).fallAt _, last⟩

/-- A field that is low in the pulses of the template is low in the pulses of its scan lines: scan line 8 is field line 0
(R203). -/
theorem cleanScan_of_template {raw : Nat → Int}
    (h : ∀ k < 238420, raw k < -20 ↔ templateSample (k / 910) (k % 910) false false = -40) :
    CleanScan fun j => raw ((scanOrigin 0 0 + j) % bufLen) := by
  intro l hl o ho
  have origin : scanOrigin 0 0 = 231140 := by decide
  have cell : (scanOrigin 0 0 + (910 * l + o)) % bufLen = 910 * ((l + 254) % 262) + o := by
    rw [origin, bufLen_eq]
    omega
  obtain ⟨line, offset⟩ := cell_line_offset ((l + 254) % 262) ho
  dsimp only
  rw [cell, h _ (by omega), show (910 * ((l + 254) % 262) + o) / 910 = (l + 254) % 262 from line,
    show (910 * ((l + 254) % 262) + o) % 910 = o from offset, templateSample_eq]
  unfold pulseWidth
  grind

/-- Settles O30: the scan of a clean field ends with the boundary found and every edge where it was expected, and each clause is
read off that. -/
theorem cleanFieldLocks : Obligations.CleanFieldLocks := by
  intro raw h
  have e : runScan raw 0 0 = scan (fun j => raw ((scanOrigin 0 0 + j) % bufLen)) scanBound 0 trackerStart := by
    unfold runScan
    rfl
  obtain ⟨locked, nominal⟩ := scan_clean (cleanScan_of_template h)
  rw [e]
  generalize scan (fun j => raw ((scanOrigin 0 0 + j) % bufLen)) scanBound 0 trackerStart = t at *
  have edge (m : Nat) (hm : m < 270) : t.edges.getD m 0 = 21 + 910 * (m : Int) := by
    rw [nominal.edges_eq]
    simp [hm]
  refine ⟨locked.st_eq, locked.vfound_eq, locked.vline_eq, edge, ?hsync, ?vsync, fun n hn => ?line⟩
  case hsync =>
    rw [newHsync, nominal.hnext_eq]
    rfl
  case vsync =>
    rw [newVsync, locked.vfound_eq, locked.vline_eq]
    rfl
  case line =>
    have origin : scanOrigin 0 0 = 231140 := by decide
    rw [lineStart, edge (n + pre) (Nat.add_lt_add_right hn 8), origin, wrapIndex_eq]
    push_cast
    omega

end Sys2Proof.Machine

/-! PROOFS. The demodulator (R242 to R255): burst, filters, colour killer, and the range of an output pixel. First the burst, then
the filters on signals of period four, then the channels of a column, then a pixel packed; each claim stands behind its laws. -/

namespace Sys2Proof.Machine

/-! ### Burst -/

theorem sumTo_mul_left (n : Nat) (c : Int) (f : Nat → Int) : sumTo n (fun i => c * f i) = c * sumTo n f := by
  induction n with
  | zero => simp [sumTo]
  | succ n ih => rw [sumTo, sumTo, ih, mul_add]

/-- The carrier squared over the 32 samples of the gate, and the carrier against its quadrature (R242). -/
theorem sumTo_carrier (a : Nat) :
    sumTo 32 (fun i => cos4 (a + i) * cos4 (a + i)) = 16 ∧ sumTo 32 (fun i => cos4 (a + i) * sin4 (a + i)) = 0 := by
  have shift (i : Nat) : cos4 (a + i) = cos4 (a % 4 + i) ∧ sin4 (a + i) = sin4 (a % 4 + i) := by
    rw [cos4_eq_ite, cos4_eq_ite, sin4_eq_ite, sin4_eq_ite, Nat.mod_add_mod]
    exact ⟨rfl, rfl⟩
  have phase : a % 4 < 4 := Nat.mod_lt _ (by decide)
  simp only [shift]
  interval_cases a % 4 <;> decide

/-- The burst gate of a field line lies inside the buffer, in order (R242). -/
theorem wrapIndex_gate {n : Nat} (hn : n < 262) {i : Nat} (hi : i < 32) :
    wrapIndex (((910 * n : Nat) : Int) + gateBeg + i) = 910 * n + 101 + i := by
  have e : ((910 * n : Nat) : Int) + gateBeg + i = ((910 * n + 101 + i : Nat) : Int) := by push_cast; rfl
  rw [e, wrapIndex_of_lt (by rw [bufLen_eq]; omega)]

/-- A carrier of amplitude `c` in the gate measures `16·c` in phase and nothing in quadrature (R242). -/
theorem gateSums_of_carrier {raw : Nat → Int} {n : Nat} (hn : n < 262) {c : Int}
    (h : ∀ i < 32, raw (910 * n + 101 + i) = c * cos4 (910 * n + 101 + i)) :
    gateSums raw (910 * n) = ⟨16 * c, 0⟩ := by
  obtain ⟨inPhase, quadrature⟩ := sumTo_carrier (910 * n + 101)
  have cosines : sumTo gateLen (fun i =>
      raw (wrapIndex (((910 * n : Nat) : Int) + gateBeg + i)) * cos4 (wrapIndex (((910 * n : Nat) : Int) + gateBeg + i)))
      = sumTo 32 fun i => c * (cos4 (910 * n + 101 + i) * cos4 (910 * n + 101 + i)) :=
    sumTo_congr fun i hi => by rw [wrapIndex_gate hn hi, h i hi, mul_assoc]
  have sines : sumTo gateLen (fun i =>
      raw (wrapIndex (((910 * n : Nat) : Int) + gateBeg + i)) * sin4 (wrapIndex (((910 * n : Nat) : Int) + gateBeg + i)))
      = sumTo 32 fun i => c * (cos4 (910 * n + 101 + i) * sin4 (910 * n + 101 + i)) :=
    sumTo_congr fun i hi => by rw [wrapIndex_gate hn hi, h i hi, mul_assoc]
  unfold gateSums
  rw [cosines, sines, sumTo_mul_left, sumTo_mul_left, inPhase, quadrature, mul_comm, mul_zero]

/-- Half a cycle of the subcarrier turns its sign (R141). -/
theorem cos4_parity (a : Nat) (f : Bool) : cos4 (a + 2 * f.toNat) = if f then -cos4 a else cos4 a := by
  cases f with
  | false => rfl
  | true =>
    simp only [Bool.toNat_true, if_true]
    rw [cos4_eq_ite, cos4_eq_ite]
    repeat' split
    all_goals omega

/-- A burst below the colour killer counts as none (R242). -/
theorem lineBurst_killed {raw : Nat → Int} {sn : Nat} (h : |(gateSums raw sn).bc| + |(gateSums raw sn).bs| < 160) :
    lineBurst raw sn = ⟨0, 0⟩ := if_pos h

/-- The nominal burst is well above the colour killer (R242). -/
theorem lineBurst_of_carrier {raw : Nat → Int} {n : Nat} (hn : n < 262) {f : Bool}
    (h : ∀ o, 101 ≤ o → o ≤ 132 → raw (910 * n + o) = -20 * cos4 (910 * n + o + 2 * f.toNat)) :
    lineBurst raw (910 * n) = ⟨if f then 320 else -320, 0⟩ := by
  have sums := gateSums_of_carrier (raw := raw) hn (c := if f then 20 else -20) fun i hi => by
    rw [Nat.add_assoc, h _ (by omega) (by omega), cos4_parity]
    cases f <;> simp
  unfold lineBurst
  rw [sums]
  cases f <;> rfl

/-- Settles O32. -/
theorem cleanBurstMeasures : Obligations.CleanBurstMeasures := fun _ _ _ hn h => lineBurst_of_carrier hn h

/-! ### Filters on a signal of period four -/

/-- Four phases in a row, from any phase on, weighted with the luma kernel (R244). -/
theorem sumTo_lumaTap (P : Nat → Int) (m : Nat) :
    sumTo 5 (fun j => lumaTap j * P ((m + j) % 4)) = 2 * (P 0 + P 1 + P 2 + P 3) := by
  have phase : m % 4 < 4 := Nat.mod_lt _ (by decide)
  simp only [← Nat.mod_add_mod m 4, sumTo, lumaTap]
  interval_cases m % 4 <;> simp <;> ring

/-- Four phases in a row, from any phase on, weighted with the chroma kernel (R245). -/
theorem sumTo_chromaTap (P : Nat → Int) (m : Nat) :
    sumTo 15 (fun j => chromaTap j * P ((m + j) % 4)) = 16 * (P 0 + P 1 + P 2 + P 3) := by
  have phase : m % 4 < 4 := Nat.mod_lt _ (by decide)
  simp only [← Nat.mod_add_mod m 4, sumTo, chromaTap]
  interval_cases m % 4 <;> simp <;> ring

/-- The buffer holds a whole number of subcarrier cycles, so wrapping keeps the phase (R63, R141). -/
theorem wrapIndex_phase {i : Int} {m : Nat} (h : (i - m) % 4 = 0) : wrapIndex i % 4 = m % 4 := by
  rw [wrapIndex_eq]
  omega

/-- Luma of a signal that has period four under the kernel (R244). -/
theorem luma8_periodic {raw : Nat → Int} {sn t : Nat} {P : Nat → Int}
    (h : ∀ j : Nat, j < 5 → raw (wrapIndex ((sn : Int) + t + j - 2)) = P (wrapIndex ((sn : Int) + t + j - 2) % 4)) :
    luma8 raw sn t = 2 * (P 0 + P 1 + P 2 + P 3) := by
  rw [← sumTo_lumaTap P (sn + t + 2)]
  refine sumTo_congr fun j hj => ?_
  rw [h j hj, wrapIndex_phase (m := sn + t + 2 + j) (by push_cast; omega)]

/-- The filtered product of a signal and a carrier that has period four under the kernel (R245). -/
theorem mixDown_periodic {raw carrier : Nat → Int} {sn t : Nat} {P : Nat → Int}
    (h : ∀ j : Nat, j < 15 → raw (wrapIndex ((sn : Int) + t + j - 7)) * carrier (wrapIndex ((sn : Int) + t + j - 7))
      = P (wrapIndex ((sn : Int) + t + j - 7) % 4)) :
    mixDown raw carrier sn t = 16 * (P 0 + P 1 + P 2 + P 3) := by
  rw [← sumTo_chromaTap P (sn + t + 1)]
  refine sumTo_congr fun j hj => ?_
  dsimp only
  rw [mul_assoc, h j hj, wrapIndex_phase (m := sn + t + 1 + j) (by push_cast; omega)]

theorem refCos_mod (b : BurstVec) (a : Nat) : refCos b (a % 4) = refCos b a := by
  rw [refCos, refCos, cos4_mod, sin4_mod]

theorem refSin_mod (b : BurstVec) (a : Nat) : refSin b (a % 4) = refSin b a := by
  rw [refSin, refSin, cos4_mod, sin4_mod]

/-- The four phases of the reference carriers (R141, R243). -/
theorem refCos_phases (b : BurstVec) :
    refCos b 0 = -b.bc ∧ refCos b 1 = -b.bs ∧ refCos b 2 = b.bc ∧ refCos b 3 = b.bs := by
  simp [refCos, cos4, sin4]

theorem refSin_phases (b : BurstVec) :
    refSin b 0 = b.bs ∧ refSin b 1 = -b.bc ∧ refSin b 2 = -b.bs ∧ refSin b 3 = b.bc := by
  simp [refSin, cos4, sin4]

/-- Settles O35: the four phases of either carrier cancel. -/
theorem flatLumaMakesNoChroma : Obligations.FlatLumaMakesNoChroma := by
  intro raw v b sn t h
  have flat (i : Int) : raw (wrapIndex i) = v := h _ (bufLen_eq ▸ wrapIndex_lt i)
  obtain ⟨c₀, c₁, c₂, c₃⟩ := refCos_phases b
  obtain ⟨s₀, s₁, s₂, s₃⟩ := refSin_phases b
  constructor
  · rw [mixDown_periodic (P := fun r => v * refCos b r) fun j _ => by rw [flat, refCos_mod], c₀, c₁, c₂, c₃]
    ring
  · rw [mixDown_periodic (P := fun r => v * refSin b r) fun j _ => by rw [flat, refSin_mod], s₀, s₁, s₂, s₃]
    ring

/-- Luma and chroma of a signal whose samples under the kernels are `S` at their phase, with the nominal burst of its field: in
an odd field signal and burst are turned together (R244, R245, R259). -/
theorem filters_periodic {raw : Nat → Int} {S : Nat → Int} {f : Bool} {sn t : Nat}
    (h : ∀ i : Int, (sn : Int) + t - 7 ≤ i → i ≤ (sn : Int) + t + 7 →
      raw (wrapIndex i) = S ((wrapIndex i + 2 * f.toNat) % 4)) :
    luma8 raw sn t = 2 * (S 0 + S 1 + S 2 + S 3)
      ∧ chromaQ raw ⟨if f then 320 else -320, 0⟩ sn t = 4 * (S 0 - S 2)
      ∧ chromaI raw ⟨if f then 320 else -320, 0⟩ sn t = 4 * (S 1 - S 3) := by
  have luma := luma8_periodic (raw := raw) (sn := sn) (t := t) (P := fun r => S ((r + 2 * f.toNat) % 4)) fun j hj => by
    rw [h _ (by omega) (by omega), Nat.mod_add_mod]
  obtain ⟨c₀, c₁, c₂, c₃⟩ := refCos_phases ⟨if f then 320 else -320, 0⟩
  obtain ⟨s₀, s₁, s₂, s₃⟩ := refSin_phases ⟨if f then 320 else -320, 0⟩
  have cosines := mixDown_periodic (raw := raw) (carrier := refCos ⟨if f then 320 else -320, 0⟩) (sn := sn) (t := t)
    (P := fun r => S ((r + 2 * f.toNat) % 4) * refCos ⟨if f then 320 else -320, 0⟩ r) fun j hj => by
      rw [h _ (by omega) (by omega), Nat.mod_add_mod, refCos_mod]
  have sines := mixDown_periodic (raw := raw) (carrier := refSin ⟨if f then 320 else -320, 0⟩) (sn := sn) (t := t)
    (P := fun r => S ((r + 2 * f.toNat) % 4) * refSin ⟨if f then 320 else -320, 0⟩ r) fun j hj => by
      rw [h _ (by omega) (by omega), Nat.mod_add_mod, refSin_mod]
  rw [chromaQ, chromaI, cosines, sines, luma, c₀, c₁, c₂, c₃, s₀, s₁, s₂, s₃]
  simp only [fdiv]
  cases f <;> simp <;> omega

/-- Settles O34. -/
theorem periodicSignalDemodulates : Obligations.PeriodicSignalDemodulates := by
  intro raw s0 s1 s2 s3 sn t h
  refine filters_periodic (f := false)
    (S := fun r => if r % 4 = 0 then s0 else if r % 4 = 1 then s1 else if r % 4 = 2 then s2 else s3) fun i _ _ => ?_
  rw [h _ (bufLen_eq ▸ wrapIndex_lt i)]
  simp

/-! ### Grey columns -/

/-- A column whose three channels are equal. -/
def Column.Grey (c : Column) : Prop := c.r = c.g ∧ c.g = c.b

theorem toRGB_grey (y : Int) : (toRGB y 0 0).Grey := ⟨rfl, rfl⟩

theorem mixDown_no_carrier {carrier : Nat → Int} (h : ∀ a, carrier a = 0) (raw : Nat → Int) (sn t : Nat) :
    mixDown raw carrier sn t = 0 :=
  sumTo_eq_zero fun j _ => by
    dsimp only
    rw [h, mul_zero]

/-- Without a burst a column is grey, whatever signal and calibration (R242, R243). -/
theorem sharpColumn_no_burst (raw : Nat → Int) (c : Calibration) (sn xv : Nat) : (sharpColumn raw c ⟨0, 0⟩ sn xv).Grey := by
  have noChroma : chromaI raw ⟨0, 0⟩ sn (164 + xv) = 0 ∧ chromaQ raw ⟨0, 0⟩ sn (164 + xv) = 0 := by
    rw [chromaI, chromaQ, mixDown_no_carrier (by simp [refSin]), mixDown_no_carrier (by simp [refCos])]
    exact ⟨rfl, rfl⟩
  have noGain : calibrateChroma c 0 = 0 := by simp [calibrateChroma, shr]
  unfold sharpColumn
  dsimp only
  rw [noChroma.1, noChroma.2, noGain]
  exact toRGB_grey _

/-- Bloom treats the three channels alike (R252). -/
theorem bloomColumn_grey {p : Nat → Column} (h : ∀ x, (p x).Grey) (xv : Nat) : (bloomColumn p xv).Grey := by
  have red : (fun x => (p x).r) = fun x => (p x).g := funext fun x => (h x).1
  have green : (fun x => (p x).g) = fun x => (p x).b := funext fun x => (h x).2
  unfold bloomColumn Column.Grey
  dsimp only
  rw [red, (h xv).1, green, (h xv).2]
  exact ⟨rfl, rfl⟩

/-- A line without a burst decodes to grey (R242, R252). -/
theorem lineColumn_no_burst {raw : Nat → Int} {sn : Nat} (h : lineBurst raw sn = ⟨0, 0⟩) (c : Calibration) (bloomEn : Bool)
    (xv : Nat) : (lineColumn raw c bloomEn sn xv).Grey := by
  unfold lineColumn
  rw [h]
  cases bloomEn with
  | false => exact sharpColumn_no_burst raw c sn xv
  | true => exact bloomColumn_grey (sharpColumn_no_burst raw c sn) xv

/-- Settles O33. -/
theorem colourKillerGivesGrey : Obligations.ColourKillerGivesGrey :=
  fun _ c bloomEn _ xv h => lineColumn_no_burst (lineBurst_killed h) c bloomEn xv

/-! ### Channels and the packed pixel -/

/-- A value an 8-bit channel can hold. -/
def InByte (v : Int) : Prop := 0 ≤ v ∧ v ≤ 255

/-- A column whose channels and luma an 8-bit channel can hold. -/
structure Column.InRange (c : Column) : Prop where
  red : InByte c.r
  green : InByte c.g
  blue : InByte c.b
  luma : InByte c.y

theorem inByte_clamp (v : Int) : InByte (clamp v 0 255) := ⟨le_clamp (by decide), clamp_le (by decide)⟩

/-- Both the calibrated luma and the channels of a column are clamped (R250, R251). -/
theorem sharpColumn_inRange (raw : Nat → Int) (c : Calibration) (b : BurstVec) (sn xv : Nat) :
    (sharpColumn raw c b sn xv).InRange :=
  ⟨inByte_clamp _, inByte_clamp _, inByte_clamp _, inByte_clamp _⟩

theorem sumTo_le_sumTo {n : Nat} {f g : Nat → Int} (h : ∀ i < n, f i ≤ g i) : sumTo n f ≤ sumTo n g := by
  induction n with
  | zero => exact le_rfl
  | succ n ih => exact add_le_add (ih fun i hi => h i (by omega)) (h n (by omega))

/-- The bloom kernel adds up to 16, so a blurred channel is a mean (R252). -/
theorem inByte_blur {ch : Nat → Int} (h : ∀ x, InByte (ch x)) (xv : Nat) : InByte (blur ch xv) := by
  have weight (j : Nat) (hj : j < 7) : 0 ≤ bloomTap j := by
    unfold bloomTap
    split <;> omega
  have tap (j : Nat) (hj : j < 7) :
      0 ≤ (if 3 ≤ xv + j ∧ xv + j - 3 ≤ 735 then bloomTap j * ch (xv + j - 3) else 0)
        ∧ (if 3 ≤ xv + j ∧ xv + j - 3 ≤ 735 then bloomTap j * ch (xv + j - 3) else 0) ≤ bloomTap j * 255 := by
    obtain ⟨lower, upper⟩ := h (xv + j - 3)
    split
    · exact ⟨mul_nonneg (weight j hj) lower, mul_le_mul_of_nonneg_left upper (weight j hj)⟩
    · exact ⟨le_rfl, mul_nonneg (weight j hj) (by decide)⟩
  have lower := sumTo_le_sumTo fun j hj => (tap j hj).1
  have upper := sumTo_le_sumTo fun j hj => (tap j hj).2
  rw [sumTo_eq_zero fun _ _ => rfl] at lower
  have total : sumTo 7 (fun j => bloomTap j * 255) = 4080 := by decide
  rw [total] at upper
  unfold blur InByte shr
  omega

/-- Bloom moves a channel towards its blurred value, never past it (R252). -/
theorem inByte_bloomMix {v w k : Int} (hv : InByte v) (hw : InByte w) (hk : InByte k) : InByte (bloomMix v w k) := by
  obtain ⟨v₀, v₁⟩ := hv
  obtain ⟨w₀, w₁⟩ := hw
  obtain ⟨k₀, k₁⟩ := hk
  unfold InByte bloomMix shr
  rcases le_total v w with up | down
  · have lower : 0 ≤ (w - v) * k := mul_nonneg (by omega) k₀
    have upper : (w - v) * k ≤ (w - v) * 255 := mul_le_mul_of_nonneg_left k₁ (by omega)
    omega
  · have upper : (w - v) * k ≤ 0 := mul_nonpos_of_nonpos_of_nonneg (by omega) k₀
    have lower : (w - v) * 255 ≤ (w - v) * k := mul_le_mul_of_nonpos_left k₁ (by omega)
    omega

theorem bloomColumn_inRange {p : Nat → Column} (h : ∀ x, (p x).InRange) (xv : Nat) : (bloomColumn p xv).InRange := by
  have strength := inByte_blur (fun x => (h x).luma) xv
  exact ⟨inByte_bloomMix (h xv).red (inByte_blur (fun x => (h x).red) xv) strength,
    inByte_bloomMix (h xv).green (inByte_blur (fun x => (h x).green) xv) strength,
    inByte_bloomMix (h xv).blue (inByte_blur (fun x => (h x).blue) xv) strength, (h xv).luma⟩

theorem lineColumn_inRange (raw : Nat → Int) (c : Calibration) (bloomEn : Bool) (sn xv : Nat) :
    (lineColumn raw c bloomEn sn xv).InRange := by
  cases bloomEn with
  | false => exact sharpColumn_inRange raw c _ sn xv
  | true => exact bloomColumn_inRange (sharpColumn_inRange raw c _ sn) xv

/-- A packed column holds each channel in its place (R68, R255). -/
theorem packPixel_channels {c : Column} (h : c.InRange) :
    Pixel.red (packPixel c) = c.r ∧ Pixel.green (packPixel c) = c.g ∧ Pixel.blue (packPixel c) = c.b := by
  obtain ⟨⟨r₀, r₁⟩, ⟨g₀, g₁⟩, ⟨b₀, b₁⟩, -⟩ := h
  obtain ⟨r, g, b⟩ := pixel_channels (packPixel c)
  have value : ((packPixel c).toNat : Int) = c.r * 65536 + c.g * 256 + c.b := by
    rw [packPixel, BitVec.toNat_ofInt]
    omega
  rw [r, g, b]
  omega

/-- Settles O36. -/
theorem outputChannelsInRange : Obligations.OutputChannelsInRange := by
  intro raw c bloomEn sn xv _
  have range := lineColumn_inRange raw c bloomEn sn xv
  have ⟨r, g, b, _⟩ := range
  exact ⟨r, g, b, packPixel_channels range⟩

end Sys2Proof.Machine

/-! PROOFS. A MODULATE followed by a DECODE without noise (R258 to R261). First the signal the decoder sees, then where each
output pixel comes from, then the monochrome field, the uniform field and the red field with their claims. -/

namespace Sys2Proof.Machine

/-! ### The signal of a field decoded without noise -/

/-- At noise 0 the noise stage keeps a sample (R184). -/
theorem noisySample_zero {a : Int} (h₁ : -127 ≤ a) (h₂ : a ≤ 127) (r : Word) : noisySample 0 r a = a := by
  have still : deviation 0 r = 0 := by simp [deviation, shr]
  rw [noisySample, still, add_zero, clamp_of_mem h₁ h₂]

/-- The raw-input samples of a DECODE without noise after a MODULATE (R62, R140). -/
def fieldSignal (p w h : Nat) (c f : Bool) (s : State) : Nat → Int := (decodeStages 0 (modulatedState p w h c f s)).raw

theorem fieldSignal_eq (p w h : Nat) (c f : Bool) (s : State) {k : Nat} (hk : k < bufLen) :
    fieldSignal p w h c f s k = ((modulatedState p w h c f s).analog.get s.draws k).toInt := by
  have levels := fieldSample_levels (quietAccess s) p w h c f k
  rw [← modulatedState_get p w h c f s (modulatedState p w h c f s).draws hk] at levels
  rw [fieldSignal, decodeStages_raw _ _ hk]
  exact noisySample_zero (by omega) (by omega) _

/-- Outside the picture the signal is the template (R146). -/
theorem fieldSignal_template (p w h : Nat) (c f : Bool) (s : State) {n o : Nat} (hn : n < 262) (ho : o < 156) :
    fieldSignal p w h c f s (910 * n + o) = templateSample n o c f := by
  have inside : 910 * n + o < bufLen := by rw [bufLen_eq]; omega
  obtain ⟨line, offset⟩ := cell_line_offset n (o := o) (by omega)
  have outside : inPicture n o = false := by
    rw [← Bool.not_eq_true, inPicture_iff]
    omega
  rw [fieldSignal_eq p w h c f s inside,
    modulatedState_template _ _ _ _ _ _ _ inside (by rw [line, offset, outside]), line, offset]

/-- In the picture the signal is the composite of the source pixel (R152). -/
theorem fieldSignal_picture {s : State} {p w h : Nat} {f : Bool} (hm : SourceMapped s p w h f) (c : Bool) {k : Nat}
    (hk : k < bufLen) (hin : inPicture (k / hres) (k % hres) = true) :
    fieldSignal p w h c f s k = activeSample (s.pixel (sourceAddr p w h f k)) c (theta k f) := by
  rw [fieldSignal_eq p w h c f s hk, modulatedState_picture hm c _ hk hin]

/-- The tracker finds every line of the field in place, from counters 0 (R216). -/
theorem fieldSignal_locks {s : State} {p w h : Nat} {f : Bool} (hm : SourceMapped s p w h f) (c : Bool) :
    newHsync 0 (runScan (fieldSignal p w h c f s) 0 0) = 0 ∧ newVsync 0 (runScan (fieldSignal p w h c f s) 0 0) = 0
      ∧ ∀ n < 262, lineStart 0 0 (runScan (fieldSignal p w h c f s) 0 0) n = 910 * n := by
  have low : ∀ k < 238420, fieldSignal p w h c f s k < -20 ↔ templateSample (k / 910) (k % 910) false false = -40 :=
    fun k hk => by
      rw [fieldSignal_eq p w h c f s (bufLen_eq ▸ hk)]
      exact modulatedState_low_iff hm c _ (bufLen_eq ▸ hk)
  obtain ⟨-, -, -, -, hsync, vsync, lines⟩ := cleanFieldLocks _ low
  exact ⟨hsync, vsync, lines⟩

/-! ### Where an output pixel comes from -/

/-- Output cell `i` shows a picture line and a column of that line (R254). -/
theorem outputPixel_source (raw : Nat → Int) (start : Nat → Nat) (c : Calibration) (bloomEn : Bool) {w h i : Nat}
    (hi : i < w * h) :
    ∃ n xv, (21 ≤ n ∧ n < 261) ∧ xv < 736
      ∧ outputPixel raw start c bloomEn w h i = packPixel (lineColumn raw c bloomEn (start n) xv) := by
  have hw : 0 < w := Nat.pos_of_ne_zero fun e => by simp [e] at hi
  have row : i / w < h := (Nat.div_lt_iff_lt_mul hw).2 (by rwa [Nat.mul_comm])
  have line : pictureLine h (i / w) < 240 := by
    unfold pictureLine nlines
    rw [Nat.div_lt_iff_lt_mul ((Nat.zero_le _).trans_lt row), Nat.mul_comm]
    exact Nat.mul_lt_mul_of_pos_left row (by decide)
  have column : pictureColumn w (i % w) < 736 := by
    unfold pictureColumn
    rw [Nat.div_lt_iff_lt_mul hw, Nat.mul_comm]
    exact Nat.mul_lt_mul_of_pos_left (Nat.mod_lt _ hw) (by decide)
  exact ⟨21 + pictureLine h (i / w), pictureColumn w (i % w), by omega, column, rfl⟩

/-- A MODULATE and a DECODE without noise, from counters 0: the counters stay 0, and every output pixel is a column of one of
the field's picture lines, each where the MODULATE put it (R216, R258, R259). -/
theorem roundTrip {s : State} {p w h : Nat} {f : Bool} (hs : DeviceReady s) (hg : GoodDims s w h)
    (hm : SourceMapped s p w h f) (ho : OutputMapped s) (hh : s.hsync = 0) (hv : s.vsync = 0) (c : Bool) :
    ∃ t u, exec (.modulate p w h c f) s = .next t ∧ exec (.decode 0) t = .next u ∧ u.hsync = 0 ∧ u.vsync = 0
      ∧ ∀ i < s.outw * s.outh, ∃ n xv, (21 ≤ n ∧ n < 261) ∧ xv < 736
        ∧ u.pixel (s.outBase.toNat + i)
          = packPixel (lineColumn (fieldSignal p w h c f s) s.cal s.params.bloomEn (910 * n) xv) := by
  have ready : DeviceReady (modulatedState p w h c f s) := hs
  have mapped : OutputMapped (modulatedState p w h c f s) := ho
  have hsync0 : (modulatedState p w h c f s).hsync = 0 := hh
  have vsync0 : (modulatedState p w h c f s).vsync = 0 := hv
  obtain ⟨hsync, vsync, cell⟩ := decodeStages_results 0 (modulatedState p w h c f s)
  obtain ⟨lockedH, lockedV, lines⟩ := fieldSignal_locks hm c
  rw [hsync0, vsync0] at hsync vsync cell
  refine ⟨_, _, exec_modulate_ready hs hg hm c, exec_decode_mapped ready mapped 0, ?_, ?_, fun i hi => ?_⟩
  · rw [decodedState_eq]
    exact hsync.trans lockedH
  · rw [decodedState_eq]
    exact vsync.trans lockedV
  · obtain ⟨n, xv, hn, hxv, e⟩ := outputPixel_source (fieldSignal p w h c f s)
      (lineStart 0 0 (runScan (fieldSignal p w h c f s) 0 0)) s.cal s.params.bloomEn hi
    refine ⟨n, xv, hn, hxv, ?_⟩
    rw [lines n (by omega)] at e
    exact (pixel_decodedState 0 (s := modulatedState p w h c f s) hi).trans ((congrFun cell i).trans e)

/-! ### A field without colour -/

/-- Without colour the burst gate of a picture line is blank (R147). -/
theorem lineBurst_monochrome (p w h : Nat) (f : Bool) (s : State) {n : Nat} (hn : 21 ≤ n ∧ n < 261) :
    lineBurst (fieldSignal p w h false f s) (910 * n) = ⟨0, 0⟩ := by
  have blank (i : Nat) (hi : i < 32) : fieldSignal p w h false f s (910 * n + 101 + i) = 0 * cos4 (910 * n + 101 + i) := by
    rw [Nat.add_assoc, fieldSignal_template _ _ _ _ _ _ (by omega) (by omega), templateSample_eq, if_neg (by omega),
      if_neg (by omega), if_neg (by omega), if_neg (by simp), zero_mul]
  exact lineBurst_killed (by rw [gateSums_of_carrier (by omega) blank]; decide)

/-- Settles O37: no picture line has a burst, so every column is grey, and so is its packed pixel. -/
theorem monochromeInvariance : Obligations.MonochromeInvariance := by
  intro s p w h f hs hg hm ho hh hv
  obtain ⟨t, u, modulated, decoded, -, -, pixels⟩ := roundTrip hs hg hm ho hh hv false
  refine ⟨t, u, modulated, decoded, fun i hi => ?_⟩
  obtain ⟨n, xv, hn, -, e⟩ := pixels i hi
  obtain ⟨red, green⟩ := lineColumn_no_burst (lineBurst_monochrome p w h f s hn) s.cal s.params.bloomEn xv
  obtain ⟨r, g, b⟩ := packPixel_channels
    (lineColumn_inRange (fieldSignal p w h false f s) s.cal s.params.bloomEn (910 * n) xv)
  rw [e, r, g, b]
  exact ⟨red, green⟩

/-! ### A uniform field -/

/-- The source pixel of a cell of the picture is one of the frame's (R148). -/
theorem sourceAddr_in_frame {s : State} {w h : Nat} (hg : GoodDims s w h) (p : Nat) (f : Bool) {k : Nat}
    (hin : inPicture (k / hres) (k % hres) = true) : ∃ i < w * h, sourceAddr p w h f k = p + i := by
  obtain ⟨⟨hw, -⟩, hh, -⟩ := hg
  rw [inPicture_iff] at hin
  refine ⟨sourceRow h (k / hres - top) f * w + sourceColumn w (k % hres - avBeg), ?_, Nat.add_assoc _ _ _⟩
  have row : sourceRow h (k / hres - top) f < h := lt_of_le_of_lt (Nat.min_le_left _ _) (by omega)
  have column : sourceColumn w (k % hres - avBeg) < w := by
    unfold sourceColumn avLen avBeg
    rw [Nat.div_lt_iff_lt_mul (by decide), Nat.mul_comm]
    exact Nat.mul_lt_mul_of_pos_left (by omega) hw
  have inside := Nat.mul_add_lt_mul_of_lt_of_lt row column
  rwa [Nat.mul_comm w (sourceRow h (k / hres - top) f), Nat.mul_comm h w] at inside

/-- The burst of a picture line in colour is the nominal one of the field (R147, R242). -/
theorem lineBurst_colour (p w h : Nat) (f : Bool) (s : State) {n : Nat} (hn : 21 ≤ n ∧ n < 261) :
    lineBurst (fieldSignal p w h true f s) (910 * n) = ⟨if f then 320 else -320, 0⟩ := by
  refine lineBurst_of_carrier (by omega) fun o h₁ h₂ => ?_
  rw [fieldSignal_template _ _ _ _ _ _ (by omega) (by omega), templateSample_eq, if_neg (by omega), if_neg (by omega),
    if_neg (by omega), if_pos ⟨by omega, by omega, rfl⟩, cos4_eq_ite]
  repeat' split
  all_goals rfl

/-- A column of a uniform field in colour, in closed form (R259). -/
theorem lineColumn_uniform {s : State} {p w h : Nat} {f : Bool} {v : Pixel} (hg : GoodDims s w h)
    (hm : SourceMapped s p w h f) (huniform : ∀ i < w * h, s.pixel (p + i) = v) (c : Calibration) {n xv : Nat}
    (hn : 21 ≤ n ∧ n < 261) (hxv : xv < 736) :
    lineColumn (fieldSignal p w h true f s) c false (910 * n) xv
      = toRGB
          (calibrateLuma c (2 * (activeSample v true 0 + activeSample v true 1 + activeSample v true 2
            + activeSample v true 3)))
          (calibrateChroma c (4 * (activeSample v true 1 - activeSample v true 3)))
          (calibrateChroma c (4 * (activeSample v true 0 - activeSample v true 2))) := by
  have periodic (i : Int) (h₁ : ((910 * n : Nat) : Int) + (164 + xv : Nat) - 7 ≤ i)
      (h₂ : i ≤ ((910 * n : Nat) : Int) + (164 + xv : Nat) + 7) :
      fieldSignal p w h true f s (wrapIndex i) = activeSample v true ((wrapIndex i + 2 * f.toNat) % 4) := by
    obtain ⟨k, rfl⟩ := Int.eq_ofNat_of_zero_le (show 0 ≤ i by omega)
    have inside : k < bufLen := by rw [bufLen_eq]; omega
    have picture : inPicture (k / hres) (k % hres) = true := by
      rw [inPicture_iff]
      simp only [hres]
      omega
    obtain ⟨j, hj, source⟩ := sourceAddr_in_frame hg p f picture
    rw [wrapIndex_of_lt inside, fieldSignal_picture hm true inside picture, source, huniform j hj, theta]
  obtain ⟨luma, q, i⟩ := filters_periodic (S := activeSample v true) (f := f) periodic
  rw [lineColumn, if_neg (by decide), lineBurst_colour p w h f s hn, sharpColumn, luma, q, i]

/-- Settles O38: every output pixel is a column of the uniform field. -/
theorem uniformFieldRoundTrip : Obligations.UniformFieldRoundTrip := by
  intro s p w h f v hs hg hm ho hh hv bloom huniform
  obtain ⟨t, u, modulated, decoded, hsync, vsync, pixels⟩ := roundTrip hs hg hm ho hh hv true
  refine ⟨t, u, modulated, decoded, hsync, vsync, fun i hi => ?_⟩
  obtain ⟨n, xv, hn, hxv, e⟩ := pixels i hi
  rw [e, bloom, lineColumn_uniform hg hm huniform s.cal hn hxv]

/-! ### The red field -/

/-- The four samples of red, the last one clamped (R260). -/
theorem activeSample_red :
    activeSample 0xFF0000 true 0 = 54 ∧ activeSample 0xFF0000 true 1 = 90 ∧ activeSample 0xFF0000 true 2 = 15
      ∧ activeSample 0xFF0000 true 3 = -20 := by decide

/-- Settles O39: the closed form of the uniform field at the four samples of red, at each of the two calibrations. -/
theorem redFieldWorkedExamples : Obligations.RedFieldWorkedExamples := by
  intro s p w h f hs hg hm ho hh hv bloom huniform
  obtain ⟨t, u, modulated, decoded, -, -, pixels⟩ :=
    uniformFieldRoundTrip s p w h f 0xFF0000 hs hg hm ho hh hv bloom huniform
  obtain ⟨s₀, s₁, s₂, s₃⟩ := activeSample_red
  refine ⟨t, u, modulated, decoded, fun i hi => ⟨fun cal => ?_, fun cal => ?_⟩⟩
  all_goals
    rw [pixels i hi, s₀, s₁, s₂, s₃, cal]
    decide

end Sys2Proof.Machine
